-- ==== Sys2Proof/Word.lean ====
section
/-! DEFINITION. The words of the block: bytes, byte sequences, 16-bit frame fields, time (00_scope.md R8, R13). -/

namespace Sys2Proof

/-- The addressable unit everywhere (20_memory.md R61). -/
abbrev Byte := BitVec 8

/-- A byte sequence: a key, a string, a payload, a frame (20_memory.md R60, R70). -/
abbrev Bytes := List Byte

/-- The declared length, the checksum and the checksum register (10_state.md R29, 40_crc.md R140). -/
abbrev Half := BitVec 16

/-- `TIME_WIDTH` of 00_scope.md R8. -/
abbrev timeWidth : Nat := 32

/-- A value of the time input `now` or of `t_stop` (10_state.md R35). -/
abbrev Time := BitVec timeWidth

end Sys2Proof
end

