-- ==== Sys2Proof/Syntax.lean ====
section
/-! DEFINITION. Type tags, Records, the four encoding spaces and the instructions: one constructor for each row of
spec/opcode_table.json. -/

namespace Sys2Proof

/-- The nine type tags (10_state.md R22, 30_encoding.md R100), in the spec's listing order. -/
inductive Tag where
  | i8 | u8 | i16 | u16 | i32 | u32 | f32 | f64 | str
  deriving DecidableEq, Repr

/-- A Record: "one named, typed field" (10_state.md R22). -/
structure Record where
  tag : Tag
  key : Bytes
  payload : Bytes
  deriving DecidableEq, Repr

/-- The encoding spaces of 30_encoding.md R90: a code means something only in its own space. -/
inductive Space where
  /-- The frame on the link, its command byte included (R91, R96). -/
  | frame
  /-- The Record inside a payload (R98, R99). -/
  | record
  /-- The host operation's selection code (R106) and operands (log 2). -/
  | hostOp
  /-- The receive steps: a byte the transport delivers, or no byte (00_scope.md R12). -/
  | rxStep
  deriving DecidableEq, Repr

/-- The operations of the block, one constructor for each row of spec/opcode_table.json. The spec's word for an
instruction is an operation (00_scope.md R2). -/
inductive Instr where
  /-- Wire command 0x50 with its payload, 44_commands.md R251. -/
  | getInfo (payload : Bytes)
  /-- Wire command 0x64 with its payload, 44_commands.md R253 to R255. -/
  | sendData (payload : Bytes)
  /-- Wire command 0x69 with its payload, 44_commands.md R256. -/
  | sendInfo (payload : Bytes)
  /-- Wire command 0x72 with its payload, 44_commands.md R252. -/
  | stopData (payload : Bytes)
  /-- Any other command byte with its payload, 44_commands.md R257. -/
  | other (cmd : Byte) (payload : Bytes)
  /-- Record form, 42_codec.md R191. -/
  | recI8 (key payload : Bytes)
  /-- Record form, 42_codec.md R192. -/
  | recU8 (key payload : Bytes)
  /-- Record form, 42_codec.md R193. -/
  | recI16 (key payload : Bytes)
  /-- Record form, 42_codec.md R194. -/
  | recU16 (key payload : Bytes)
  /-- Record form, 42_codec.md R195. -/
  | recI32 (key payload : Bytes)
  /-- Record form, 42_codec.md R196. -/
  | recU32 (key payload : Bytes)
  /-- Record form, 42_codec.md R197. -/
  | recF32 (key payload : Bytes)
  /-- Record form, 42_codec.md R198. -/
  | recF64 (key payload : Bytes)
  /-- Record form, 42_codec.md R199. -/
  | recStr (key payload : Bytes)
  /-- Host operation 0x00, 41_record_store.md R160; `v` is the two's-complement pattern (R159). -/
  | setI8 (key : Bytes) (v : BitVec 8)
  /-- Host operation 0x01, 41_record_store.md R161. -/
  | setU8 (key : Bytes) (v : BitVec 8)
  /-- Host operation 0x02, 41_record_store.md R162. -/
  | setI16 (key : Bytes) (v : BitVec 16)
  /-- Host operation 0x03, 41_record_store.md R163. -/
  | setU16 (key : Bytes) (v : BitVec 16)
  /-- Host operation 0x04, 41_record_store.md R164. -/
  | setI32 (key : Bytes) (v : BitVec 32)
  /-- Host operation 0x05, 41_record_store.md R165. -/
  | setU32 (key : Bytes) (v : BitVec 32)
  /-- Host operation 0x06, 41_record_store.md R166; `v` is an opaque pattern. -/
  | setF32 (key : Bytes) (v : BitVec 32)
  /-- Host operation 0x07, 41_record_store.md R167; `v` is an opaque pattern. -/
  | setF64 (key : Bytes) (v : BitVec 64)
  /-- Host operation 0x08, 41_record_store.md R168. -/
  | setStr (key v : Bytes)
  /-- Host operation 0x10, 41_record_store.md R170. -/
  | getI8 (key : Bytes)
  /-- Host operation 0x11, 41_record_store.md R171. -/
  | getU8 (key : Bytes)
  /-- Host operation 0x12, 41_record_store.md R172. -/
  | getI16 (key : Bytes)
  /-- Host operation 0x13, 41_record_store.md R173. -/
  | getU16 (key : Bytes)
  /-- Host operation 0x14, 41_record_store.md R174. -/
  | getI32 (key : Bytes)
  /-- Host operation 0x15, 41_record_store.md R175. -/
  | getU32 (key : Bytes)
  /-- Host operation 0x16, 41_record_store.md R176. -/
  | getF32 (key : Bytes)
  /-- Host operation 0x17, 41_record_store.md R177. -/
  | getF64 (key : Bytes)
  /-- Host operation 0x18, 41_record_store.md R178. -/
  | getStr (key : Bytes)
  /-- Host operation 0x20, 41_record_store.md R152. -/
  | find (key : Bytes)
  /-- Host operation 0x21, 41_record_store.md R151. -/
  | clear
  /-- Host operation 0x22, 42_codec.md R200. -/
  | encode
  /-- Host operation 0x23, 42_codec.md R201. -/
  | decode (bytes : Bytes)
  /-- Host operation 0x30, 40_crc.md R136: the range is `bytes[start .. stop)`. -/
  | crcCalc (bytes : Bytes) (start stop : Nat)
  /-- Host operation 0x40, 45_tx_and_host.md R276. -/
  | poll
  /-- Host operation 0x41, 45_tx_and_host.md R270. -/
  | send (cmd : Byte)
  /-- Host operation 0x42, 45_tx_and_host.md R278. -/
  | available
  /-- Host operation 0x43, 45_tx_and_host.md R279. -/
  | statusRead
  /-- Host operation 0x44, 45_tx_and_host.md R280. -/
  | errClear
  /-- Host operation 0x50, 45_tx_and_host.md R281, field `class_id`. -/
  | descSet0 (v : BitVec 16)
  /-- Host operation 0x51, 45_tx_and_host.md R281, field `type_id`. -/
  | descSet1 (v : BitVec 16)
  /-- Host operation 0x52, 45_tx_and_host.md R281, field `serial`. -/
  | descSet2 (v : BitVec 32)
  /-- Host operation 0x53, 45_tx_and_host.md R281, field `ver_major`. -/
  | descSet3 (v : BitVec 8)
  /-- Host operation 0x54, 45_tx_and_host.md R281, field `ver_minor`. -/
  | descSet4 (v : BitVec 8)
  /-- Host operation 0x55, 45_tx_and_host.md R281, field `ver_rev`. -/
  | descSet5 (v : BitVec 8)
  /-- Host operation 0x56, 45_tx_and_host.md R281, field `name`. -/
  | descSet6 (v : Bytes)
  /-- Host operation 0x57, 45_tx_and_host.md R281, field `info`. -/
  | descSet7 (v : Bytes)
  /-- Host operation 0x60, 45_tx_and_host.md R282, field `class_id`. -/
  | descGet0
  /-- Host operation 0x61, 45_tx_and_host.md R282, field `type_id`. -/
  | descGet1
  /-- Host operation 0x62, 45_tx_and_host.md R282, field `serial`. -/
  | descGet2
  /-- Host operation 0x63, 45_tx_and_host.md R282, field `ver_major`. -/
  | descGet3
  /-- Host operation 0x64, 45_tx_and_host.md R282, field `ver_minor`. -/
  | descGet4
  /-- Host operation 0x65, 45_tx_and_host.md R282, field `ver_rev`. -/
  | descGet5
  /-- Host operation 0x66, 45_tx_and_host.md R282, field `name`. -/
  | descGet6
  /-- Host operation 0x67, 45_tx_and_host.md R282, field `info`. -/
  | descGet7
  /-- The receive step for one byte, 43_rx_framer.md R221. -/
  | rxByte (b : Byte)
  /-- The receive step that finds no byte, 45_tx_and_host.md R277. -/
  | rxEmpty
  deriving DecidableEq, Repr

end Sys2Proof
end

