-- ==== Sys2Proof/Config.lean ====
section
/-! DEFINITION. The implementation parameters of 00_scope.md R8: those whose value the spec fixes are constants, those
it leaves OPEN are the fields of `Config`, with the defaults the spec gives them. -/

namespace Sys2Proof

/-! ### Parameters with a fixed value (R8) -/

/-- `CRC_POLY`: x^16 + x^12 + x^5 + 1 without the x^16 term. -/
abbrev crcPoly : Half := 0x1021#16

/-- `CRC_INIT` (92_eei_decisions.md D1). -/
abbrev crcInit : Half := 0x0000#16

/-- `CRC_XOROUT` (92_eei_decisions.md D1). -/
abbrev crcXorOut : Half := 0x0000#16

/-- `HEADER`. -/
abbrev headerMarker : Byte := 0xAA#8

/-- `PKTID`. -/
abbrev packetIdMarker : Byte := 0xBB#8

/-- `TERM`. -/
abbrev terminatorMarker : Byte := 0xDD#8

/-- `CMD_GET_INFO`. -/
abbrev cmdGetInfo : Byte := 0x50#8

/-- `CMD_SEND_DATA`. -/
abbrev cmdSendData : Byte := 0x64#8

/-- `CMD_SEND_INFO`. -/
abbrev cmdSendInfo : Byte := 0x69#8

/-- `CMD_STOP_DATA`. -/
abbrev cmdStopData : Byte := 0x72#8

/-- `SUPPRESS_WINDOW`, in time-units. -/
abbrev suppressWindow : Nat := 4000

/-- What the declared length counts beside the payload: command byte, two checksum bytes, terminator (30_encoding.md
R94). It is also the least legal declared length. -/
abbrev lenOverhead : Nat := 4

/-- The longest payload, `LEN_MAX − 4` (30_encoding.md R92, 45_tx_and_host.md R272). -/
abbrev payloadMax : Nat := 65531

/-- `KEY_MAX`. -/
abbrev keyMax : Nat := 255

/-- `STR_MAX`; also the bound on the descriptor's strings (10_state.md R36). -/
abbrev strMax : Nat := 255

/-- The eight Records of a `GET_INFO` response: the least legal `STORE_MAX_RECORDS` (44_commands.md R259 (d)). -/
abbrev storeMinRecords : Nat := 8

/-! ### OPEN parameters (R8) -/

/-- The values of `VALUE_ORDER` (20_memory.md R69). -/
inductive ByteOrder where
  | little | big
  deriving DecidableEq, Repr

/-- `TAG_CODE`: the byte that spells each tag (30_encoding.md R100). -/
structure TagCodes where
  i8 : Byte
  u8 : Byte
  i16 : Byte
  u16 : Byte
  i32 : Byte
  u32 : Byte
  f32 : Byte
  f64 : Byte
  str : Byte
  deriving DecidableEq, Repr

/-- The device descriptor's fields (10_state.md R36). -/
structure Descriptor where
  classId : BitVec 16
  typeId : BitVec 16
  serial : BitVec 32
  verMajor : BitVec 8
  verMinor : BitVec 8
  verRev : BitVec 8
  name : Bytes
  info : Bytes
  deriving DecidableEq, Repr

/-- `INFO_KEYS`: the key strings of the `GET_INFO` response, entry 0 to entry 7 (44_commands.md R251, R258). -/
structure InfoKeys where
  classId : Bytes
  typeId : Bytes
  serial : Bytes
  verMajor : Bytes
  verMinor : Bytes
  verRev : Bytes
  name : Bytes
  info : Bytes
  deriving DecidableEq, Repr

/-- The OPEN parameters of 00_scope.md R8. `storeMaxRecords = none` is "unbounded". -/
structure Config where
  tagCode : TagCodes
  valueOrder : ByteOrder
  rxMaxPayload : Nat
  infoKeys : InfoKeys
  storeMaxRecords : Option Nat
  descReset : Descriptor
  deriving DecidableEq, Repr

/-- The nine codes in R100's order. -/
def TagCodes.toList (c : TagCodes) : List Byte :=
  [c.i8, c.u8, c.i16, c.u16, c.i32, c.u32, c.f32, c.f64, c.str]

/-- The eight keys in R251's order. -/
def InfoKeys.toList (k : InfoKeys) : List Bytes :=
  [k.classId, k.typeId, k.serial, k.verMajor, k.verMinor, k.verRev, k.name, k.info]

/-- The bound of 10_state.md R36 on the descriptor's strings. -/
abbrev Descriptor.Wf (d : Descriptor) : Prop :=
  d.name.length ≤ strMax ∧ d.info.length ≤ strMax

/-- What the spec demands of the OPEN parameters: `TAG_CODE` injective (30_encoding.md R100), `INFO_KEYS` distinct and at
most 255 bytes each (44_commands.md R258), a bounded store of at least 8 Records (R259 (d)), and a `DESC_RESET` that the
descriptor can hold (10_state.md R36). -/
abbrev Config.Wf (c : Config) : Prop :=
  c.tagCode.toList.Nodup ∧ c.infoKeys.toList.Nodup ∧ (∀ k ∈ c.infoKeys.toList, k.length ≤ keyMax) ∧
    (∀ n ∈ c.storeMaxRecords, storeMinRecords ≤ n) ∧ c.descReset.Wf

/-- `TAG_CODE` by default: 0x00 to 0x08 in the listing order (R100). -/
def TagCodes.standard : TagCodes where
  i8 := 0x00#8
  u8 := 0x01#8
  i16 := 0x02#8
  u16 := 0x03#8
  i32 := 0x04#8
  u32 := 0x05#8
  f32 := 0x06#8
  f64 := 0x07#8
  str := 0x08#8

/-- `INFO_KEYS` by default: "class", "type", "serial", "vmajor", "vminor", "vrev", "name", "info" (R8). -/
def InfoKeys.standard : InfoKeys where
  classId := [0x63#8, 0x6C#8, 0x61#8, 0x73#8, 0x73#8]
  typeId := [0x74#8, 0x79#8, 0x70#8, 0x65#8]
  serial := [0x73#8, 0x65#8, 0x72#8, 0x69#8, 0x61#8, 0x6C#8]
  verMajor := [0x76#8, 0x6D#8, 0x61#8, 0x6A#8, 0x6F#8, 0x72#8]
  verMinor := [0x76#8, 0x6D#8, 0x69#8, 0x6E#8, 0x6F#8, 0x72#8]
  verRev := [0x76#8, 0x72#8, 0x65#8, 0x76#8]
  name := [0x6E#8, 0x61#8, 0x6D#8, 0x65#8]
  info := [0x69#8, 0x6E#8, 0x66#8, 0x6F#8]

/-- `DESC_RESET` by default: zeros and empty strings (R8, 10_state.md R41). -/
def Descriptor.zero : Descriptor where
  classId := 0
  typeId := 0
  serial := 0
  verMajor := 0
  verMinor := 0
  verRev := 0
  name := []
  info := []

/-- The defaults of R8. -/
def Config.standard : Config where
  tagCode := TagCodes.standard
  valueOrder := .little
  rxMaxPayload := payloadMax
  infoKeys := InfoKeys.standard
  storeMaxRecords := none
  descReset := Descriptor.zero

end Sys2Proof
end

