-- ==== Sys2Proof/Machine/Bits.lean ====
section
/-! DEFINITION. Bit fields and byte orders: the two halves of a 16-bit frame field, and numbers as byte sequences in
either order. -/

namespace Sys2Proof.Machine

/-- Bits 15:8 of a 16-bit field, the byte sent first (20_memory.md R68). -/
def hiByte (h : Half) : Byte := h.extractLsb' 8 8

/-- Bits 7:0 of a 16-bit field. -/
def loByte (h : Half) : Byte := h.extractLsb' 0 8

/-- `{hi, lo}`, the big-endian 16-bit number (00_scope.md R13, 20_memory.md R68). -/
def joinBytes (hi lo : Byte) : Half := hi ++ lo

/-- `le_bytes_w(u)`: the `w` bytes of a number, least significant first (41_record_store.md R159). -/
def leBytes : Nat → Nat → Bytes
  | 0, _ => []
  | w + 1, u => BitVec.ofNat 8 u :: leBytes w (u / 256)

/-- The number whose bytes, least significant first, are given: the inverse of `leBytes`. -/
def leValue : Bytes → Nat
  | [] => 0
  | b :: p => b.toNat + 256 * leValue p

/-- `be_bytes_w(u)`: most significant byte first (41_record_store.md R159). -/
def beBytes (w u : Nat) : Bytes := (leBytes w u).reverse

/-- The number whose bytes, most significant first, are given. -/
def beValue (p : Bytes) : Nat := leValue p.reverse

/-- `ord_bytes_w(u)` (41_record_store.md R159). -/
def ordBytes (o : ByteOrder) (w u : Nat) : Bytes :=
  match o with
  | .little => leBytes w u
  | .big => beBytes w u

/-- `ord_value_w(p)` (41_record_store.md R159). -/
def ordValue (o : ByteOrder) (p : Bytes) : Nat :=
  match o with
  | .little => leValue p
  | .big => beValue p

end Sys2Proof.Machine
end

