-- ==== Sys2Proof/Machine/Crc.lean ====
section
/-! DEFINITION. The Checksum Engine: the table (40_crc.md R131), the table-driven step (R133), the bit-serial step
(R134) and the checksum of a byte sequence (R136). -/

namespace Sys2Proof.Machine

/-- One round of table construction: shift left, and exclusive-or with the polynomial when the bit that left was 1 (R131). -/
def tableShift (r : Half) : Half :=
  if r.msb then (r <<< 1) ^^^ crcPoly else r <<< 1

/-- The construction of entry `i`: the dividend byte enters at the top, eight rounds follow (R131). -/
def crcTableEntry (i : Byte) : Half :=
  Nat.repeat tableShift 8 (i ++ 0x00#8)

/-- `crc_table`, "built once at construction" (R131, 10_state.md R38). -/
def crcTable : List Half :=
  (List.range 256).map fun i => crcTableEntry (BitVec.ofNat 8 i)

/-- `crc_table[i]`; an 8-bit index is always in range (R140). -/
def crcLookup (i : Byte) : Half := crcTable.getD i.toNat 0

/-- `crc_step(c, b)`, the table-driven update (R133). -/
def crcStep (c : Half) (b : Byte) : Half :=
  (c <<< 8) ^^^ crcLookup (hiByte c ^^^ b)

/-- One message bit of the bit-serial update (R134): `fb` is the bit leaving the register, exclusive-or the message bit. -/
def crcShiftBit (c : Half) (bit : Bool) : Half :=
  if c.msb ^^ bit then (c <<< 1) ^^^ crcPoly else c <<< 1

/-- `crc_step_serial(c, b)`: the bits of `b`, most significant first (R134). -/
def crcStepSerial (c : Half) (b : Byte) : Half :=
  [7, 6, 5, 4, 3, 2, 1, 0].foldl (fun c k => crcShiftBit c (b.getLsbD k)) c

/-- `CRC(s)`: `CRC_CALC` over the whole of `s` (R136). -/
def crc (s : Bytes) : Half := s.foldl crcStep crcInit ^^^ crcXorOut

end Sys2Proof.Machine
end

