-- ==== Sys2Proof/Machine/Operands.lean ====
section
/-! DEFINITION. Type tags' widths and codes, typed values, and how a value becomes payload bytes and back
(30_encoding.md R100, 41_record_store.md R157 to R178). -/

namespace Sys2Proof.Machine

/-- The tags in R100's order. -/
def allTags : List Tag := [.i8, .u8, .i16, .u16, .i32, .u32, .f32, .f64, .str]

/-- `width(tag)` in bytes; a string has no fixed width (30_encoding.md R100). -/
def fixedWidth : Tag → Option Nat
  | .i8 => some 1
  | .u8 => some 1
  | .i16 => some 2
  | .u16 => some 2
  | .i32 => some 4
  | .u32 => some 4
  | .f32 => some 4
  | .f64 => some 8
  | .str => none

/-- `code(tag)` under the parameter `TAG_CODE` (30_encoding.md R100). -/
def tagCode (cfg : Config) : Tag → Byte
  | .i8 => cfg.tagCode.i8
  | .u8 => cfg.tagCode.u8
  | .i16 => cfg.tagCode.i16
  | .u16 => cfg.tagCode.u16
  | .i32 => cfg.tagCode.i32
  | .u32 => cfg.tagCode.u32
  | .f32 => cfg.tagCode.f32
  | .f64 => cfg.tagCode.f64
  | .str => cfg.tagCode.str

/-- The tag that a byte spells, if any (30_encoding.md R103). -/
def tagOf? (cfg : Config) (b : Byte) : Option Tag :=
  allTags.find? fun t => tagCode cfg t == b

/-- The payload length that a tag allows: INV-WIDTH's clause on the payload (10_state.md R23). -/
def payloadFits (t : Tag) (n : Nat) : Bool :=
  match fixedWidth t with
  | some w => n == w
  | none => decide (n ≤ strMax)

/-- INV-WIDTH for one Record (10_state.md R23). -/
def recordFits (r : Record) : Bool :=
  decide (r.key.length ≤ keyMax) && payloadFits r.tag r.payload.length

/-! ### SET: `bytes_T` -/

/-- `bytes_I8` (R160): `v` is the two's-complement pattern of the number (R159). -/
def bytesI8 (v : BitVec 8) : Bytes := [v]

/-- `bytes_U8` (R161). -/
def bytesU8 (v : BitVec 8) : Bytes := [v]

/-- `bytes_I16` (R162). -/
def bytesI16 (o : ByteOrder) (v : BitVec 16) : Bytes := ordBytes o 2 v.toNat

/-- `bytes_U16` (R163). -/
def bytesU16 (o : ByteOrder) (v : BitVec 16) : Bytes := ordBytes o 2 v.toNat

/-- `bytes_I32` (R164). -/
def bytesI32 (o : ByteOrder) (v : BitVec 32) : Bytes := ordBytes o 4 v.toNat

/-- `bytes_U32` (R165). -/
def bytesU32 (o : ByteOrder) (v : BitVec 32) : Bytes := ordBytes o 4 v.toNat

/-- `bytes_F32` (R166): the pattern, never interpreted. -/
def bytesF32 (o : ByteOrder) (v : BitVec 32) : Bytes := ordBytes o 4 v.toNat

/-- `bytes_F64` (R167): the pattern, never interpreted. -/
def bytesF64 (o : ByteOrder) (v : BitVec 64) : Bytes := ordBytes o 8 v.toNat

/-- `bytes_STR` (R168): one byte per character, no terminator. -/
def bytesStr (s : Bytes) : Bytes := s

/-! ### GET: `value_T` and `default_T` -/

/-- A value that an operation returns: a signed or unsigned number, a floating-point pattern, or a character sequence
(41_record_store.md R157, 45_tx_and_host.md R282). -/
inductive Value where
  | signed (v : Int)
  | unsigned (v : Nat)
  | pattern32 (v : BitVec 32)
  | pattern64 (v : BitVec 64)
  | text (s : Bytes)
  deriving DecidableEq, Repr

/-- `value_T(p)` for a payload of `T`'s width (R170 to R178). -/
def valueOf (o : ByteOrder) (t : Tag) (p : Bytes) : Value :=
  match t with
  | .i8 => .signed (BitVec.ofNat 8 (ordValue o p)).toInt
  | .u8 => .unsigned (ordValue o p)
  | .i16 => .signed (BitVec.ofNat 16 (ordValue o p)).toInt
  | .u16 => .unsigned (ordValue o p)
  | .i32 => .signed (BitVec.ofNat 32 (ordValue o p)).toInt
  | .u32 => .unsigned (ordValue o p)
  | .f32 => .pattern32 (BitVec.ofNat 32 (ordValue o p))
  | .f64 => .pattern64 (BitVec.ofNat 64 (ordValue o p))
  | .str => .text p

/-- `default_T`: "zero/default value" (R157). -/
def defaultOf (t : Tag) : Value :=
  match t with
  | .i8 => .signed 0
  | .u8 => .unsigned 0
  | .i16 => .signed 0
  | .u16 => .unsigned 0
  | .i32 => .signed 0
  | .u32 => .unsigned 0
  | .f32 => .pattern32 0
  | .f64 => .pattern64 0
  | .str => .text []

end Sys2Proof.Machine
end

