-- ==== Sys2Proof/WellFormed.lean ====
section
/-! DEFINITION. Which instructions the encodings can spell: payload lengths of frames, key and payload lengths of
Records, the command bytes that OTHER stands for, and the index range of the host port's `CRC_CALC` (log 2). -/

namespace Sys2Proof

/-- A payload that fits a frame (30_encoding.md R92) and this block's receive buffer (43_rx_framer.md R225). -/
def payloadWf (cfg : Config) (payload : Bytes) : Bool :=
  decide (payload.length ≤ payloadMax) && decide (payload.length ≤ cfg.rxMaxPayload)

/-- The four command bytes that have a meaning of their own (30_encoding.md R96). -/
def assignedCommand (cmd : Byte) : Bool :=
  cmd == cmdGetInfo || cmd == cmdSendData || cmd == cmdSendInfo || cmd == cmdStopData

/-- The range of an index on the host port (log 2). -/
abbrev portIndexMax : Nat := 2 ^ 32

/-- Well-formed instructions: those that `encode` spells and `decode` answers. -/
def wellFormed (cfg : Config) (i : Instr) : Bool :=
  match i with
  | .getInfo p => payloadWf cfg p
  | .sendData p => payloadWf cfg p
  | .sendInfo p => payloadWf cfg p
  | .stopData p => payloadWf cfg p
  | .other c p => !assignedCommand c && payloadWf cfg p
  | .recI8 k p => Machine.recordFits ⟨.i8, k, p⟩
  | .recU8 k p => Machine.recordFits ⟨.u8, k, p⟩
  | .recI16 k p => Machine.recordFits ⟨.i16, k, p⟩
  | .recU16 k p => Machine.recordFits ⟨.u16, k, p⟩
  | .recI32 k p => Machine.recordFits ⟨.i32, k, p⟩
  | .recU32 k p => Machine.recordFits ⟨.u32, k, p⟩
  | .recF32 k p => Machine.recordFits ⟨.f32, k, p⟩
  | .recF64 k p => Machine.recordFits ⟨.f64, k, p⟩
  | .recStr k p => Machine.recordFits ⟨.str, k, p⟩
  | .setI8 _ _ => true
  | .setU8 _ _ => true
  | .setI16 _ _ => true
  | .setU16 _ _ => true
  | .setI32 _ _ => true
  | .setU32 _ _ => true
  | .setF32 _ _ => true
  | .setF64 _ _ => true
  | .setStr _ _ => true
  | .getI8 _ => true
  | .getU8 _ => true
  | .getI16 _ => true
  | .getU16 _ => true
  | .getI32 _ => true
  | .getU32 _ => true
  | .getF32 _ => true
  | .getF64 _ => true
  | .getStr _ => true
  | .find _ => true
  | .clear => true
  | .encode => true
  | .decode _ => true
  | .crcCalc _ start stop => decide (start < portIndexMax) && decide (stop < portIndexMax)
  | .poll => true
  | .send _ => true
  | .available => true
  | .statusRead => true
  | .errClear => true
  | .descSet0 _ => true
  | .descSet1 _ => true
  | .descSet2 _ => true
  | .descSet3 _ => true
  | .descSet4 _ => true
  | .descSet5 _ => true
  | .descSet6 _ => true
  | .descSet7 _ => true
  | .descGet0 => true
  | .descGet1 => true
  | .descGet2 => true
  | .descGet3 => true
  | .descGet4 => true
  | .descGet5 => true
  | .descGet6 => true
  | .descGet7 => true
  | .rxByte _ => true
  | .rxEmpty => true

end Sys2Proof
end

