-- ==== Sys2Proof/Decode.lean ====
section
/-! DEFINITION. The decoder, total on any bytes and rejecting by name, in the four encoding spaces of 30_encoding.md R90,
and after it the encoder, written from the same tables. -/

namespace Sys2Proof

open Machine

/-- Why bytes spell no instruction of their space. -/
inductive DecodeError where
  /-- Nothing to decode. -/
  | noBytes
  /-- Frame, offset 0: not the header marker (30_encoding.md R91, R104). -/
  | badHeader (b : Byte)
  /-- Frame, offset 1: not the packet-id marker (R91, R104). -/
  | badPacketId (b : Byte)
  /-- Frame, offsets 2 and 3: a declared length below 4 or beyond the receive buffer (R94, R104). -/
  | badLength (len : Nat)
  /-- Frame: fewer bytes than the declared length counts. -/
  | frameCutShort
  /-- Frame: the checksum field is not the checksum of the payload (R95, R104). -/
  | badChecksum
  /-- Frame, last byte: not the terminator marker (R91, R104). -/
  | badTerminator (b : Byte)
  /-- Record: the tag byte is the code of no tag, `UnknownTag` (R103, 42_codec.md R203). -/
  | unknownTag (b : Byte)
  /-- Record: it runs past the end, `DecodeOutOfRange` (42_codec.md R202). -/
  | recordCutShort
  /-- Host operation: the code selects no operation (30_encoding.md R107). -/
  | invalidCode (b : Byte)
  /-- Host operation: the bytes after the code do not spell its operands (log 2). -/
  | badOperands
  deriving DecidableEq, Repr

/-- What a decoder answers: a result and the bytes after it, or why not. -/
abbrev Decoded (α : Type) := Except DecodeError (α × Bytes)

/-- Go on with what was decoded and the bytes after it. -/
def Decoded.then {α β : Type} (d : Decoded α) (f : α → Bytes → Decoded β) : Decoded β :=
  match d with
  | .ok (a, s) => f a s
  | .error e => .error e

/-! ### The Record (30_encoding.md R98 to R103, 42_codec.md R201) -/

/-- Take `n` bytes of a Record; a Record that runs past the end is out of range (42_codec.md R202). -/
def takeExactly (n : Nat) (s : Bytes) : Decoded Bytes :=
  if s.length < n then .error .recordCutShort else .ok (s.take n, s.drop n)

/-- Take a length byte of a Record and as many bytes (R101, R102). -/
def takeCounted (s : Bytes) : Decoded Bytes :=
  match s with
  | [] => .error .recordCutShort
  | n :: s => takeExactly n.toNat s

/-- The value field: `width(tag)` bytes, or a counted string (R99). -/
def takeValue (t : Tag) (s : Bytes) : Decoded Bytes :=
  match fixedWidth t with
  | some w => takeExactly w s
  | none => takeCounted s

/-- One Record, in the order of the tests of 42_codec.md R201: the tag is judged before anything else is looked at. -/
def parseRecord (cfg : Config) (s : Bytes) : Decoded Record :=
  match s with
  | [] => .error .noBytes
  | b :: s =>
    match tagOf? cfg b with
    | none => .error (.unknownTag b)
    | some t => (takeCounted s).then fun key s => (takeValue t s).then fun p s => .ok (⟨t, key, p⟩, s)

/-- The Record form that stands for a Record (42_codec.md R191 to R199). -/
def recordInstr (r : Record) : Instr :=
  match r.tag with
  | .i8 => .recI8 r.key r.payload
  | .u8 => .recU8 r.key r.payload
  | .i16 => .recI16 r.key r.payload
  | .u16 => .recU16 r.key r.payload
  | .i32 => .recI32 r.key r.payload
  | .u32 => .recU32 r.key r.payload
  | .f32 => .recF32 r.key r.payload
  | .f64 => .recF64 r.key r.payload
  | .str => .recStr r.key r.payload

/-- Decode one Record form. -/
def decodeRecord (cfg : Config) (s : Bytes) : Decoded Instr :=
  (parseRecord cfg s).then fun r s => .ok (recordInstr r, s)

/-! ### The frame (30_encoding.md R91 to R97) -/

/-- The wire command that a command byte selects (R96, R97). -/
def wireInstr (cmd : Byte) (payload : Bytes) : Instr :=
  if cmd = cmdGetInfo then .getInfo payload
  else if cmd = cmdSendData then .sendData payload
  else if cmd = cmdSendInfo then .sendInfo payload
  else if cmd = cmdStopData then .stopData payload
  else .other cmd payload

/-- The declared length is legal for this receiver (R94, 43_rx_framer.md R225). -/
def lengthAccepted (cfg : Config) (len : Nat) : Bool :=
  !(decide (len < lenOverhead) || decide (cfg.rxMaxPayload < len - lenOverhead))

/-- What follows the payload: checksum, then terminator, judged in that order (43_rx_framer.md R233). -/
def decodeTrailer (cmd : Byte) (payload : Bytes) (s : Bytes) : Decoded Instr :=
  match s with
  | hi :: lo :: t :: s =>
    if crc payload ≠ joinBytes hi lo then .error .badChecksum
    else if t ≠ terminatorMarker then .error (.badTerminator t)
    else .ok (wireInstr cmd payload, s)
  | _ => .error .frameCutShort

/-- What follows the declared length: the command, the payload by count, the trailer (R93, R94). -/
def decodeBody (len : Nat) (s : Bytes) : Decoded Instr :=
  match s with
  | cmd :: s =>
    if s.length < len - lenOverhead then .error .frameCutShort
    else decodeTrailer cmd (s.take (len - lenOverhead)) (s.drop (len - lenOverhead))
  | [] => .error .frameCutShort

/-- Decode one whole frame (R91), each field judged where it stands. -/
def decodeFrame (cfg : Config) (s : Bytes) : Decoded Instr :=
  match s with
  | [] => .error .noBytes
  | h :: s =>
    if h ≠ headerMarker then .error (.badHeader h)
    else match s with
      | [] => .error .frameCutShort
      | p :: s =>
        if p ≠ packetIdMarker then .error (.badPacketId p)
        else match s with
          | hi :: lo :: s =>
            if lengthAccepted cfg (joinBytes hi lo).toNat then decodeBody (joinBytes hi lo).toNat s
            else .error (.badLength (joinBytes hi lo).toNat)
          | _ => .error .frameCutShort

/-! ### The host operation (30_encoding.md R106, R107; operands in the model's own form, log 2)

An operand that is a byte sequence is sent as, for each byte, the byte 01 and then it, and at the end the byte 00: so a
sequence has no longest length, and zero bytes spell the empty sequence. A number is sent in its width, most significant
byte first; an index of `CRC_CALC` is four bytes wide. -/

/-- Take a byte-sequence operand. -/
def takeSeq : Bytes → Decoded Bytes
  | [] => .error .badOperands
  | [m] => if m = 0x00#8 then .ok ([], []) else .error .badOperands
  | m :: b :: s =>
    if m = 0x00#8 then .ok ([], b :: s)
    else if m = 0x01#8 then (takeSeq s).then fun k s => .ok (b :: k, s)
    else .error .badOperands

/-- Take a number of `w` bytes. -/
def takeNumber (w : Nat) (s : Bytes) : Decoded Nat :=
  if s.length < w then .error .badOperands else .ok (beValue (s.take w), s.drop w)

/-- The operation that a selection code selects (R106), with its operands; every other code is invalid (R107). -/
def decodeSelected (code : Byte) (s : Bytes) : Decoded Instr :=
  match code.toNat with
  | 0x00 => (takeSeq s).then fun k s => (takeNumber 1 s).then fun v s => .ok (.setI8 k (BitVec.ofNat 8 v), s)
  | 0x01 => (takeSeq s).then fun k s => (takeNumber 1 s).then fun v s => .ok (.setU8 k (BitVec.ofNat 8 v), s)
  | 0x02 => (takeSeq s).then fun k s => (takeNumber 2 s).then fun v s => .ok (.setI16 k (BitVec.ofNat 16 v), s)
  | 0x03 => (takeSeq s).then fun k s => (takeNumber 2 s).then fun v s => .ok (.setU16 k (BitVec.ofNat 16 v), s)
  | 0x04 => (takeSeq s).then fun k s => (takeNumber 4 s).then fun v s => .ok (.setI32 k (BitVec.ofNat 32 v), s)
  | 0x05 => (takeSeq s).then fun k s => (takeNumber 4 s).then fun v s => .ok (.setU32 k (BitVec.ofNat 32 v), s)
  | 0x06 => (takeSeq s).then fun k s => (takeNumber 4 s).then fun v s => .ok (.setF32 k (BitVec.ofNat 32 v), s)
  | 0x07 => (takeSeq s).then fun k s => (takeNumber 8 s).then fun v s => .ok (.setF64 k (BitVec.ofNat 64 v), s)
  | 0x08 => (takeSeq s).then fun k s => (takeSeq s).then fun v s => .ok (.setStr k v, s)
  | 0x10 => (takeSeq s).then fun k s => .ok (.getI8 k, s)
  | 0x11 => (takeSeq s).then fun k s => .ok (.getU8 k, s)
  | 0x12 => (takeSeq s).then fun k s => .ok (.getI16 k, s)
  | 0x13 => (takeSeq s).then fun k s => .ok (.getU16 k, s)
  | 0x14 => (takeSeq s).then fun k s => .ok (.getI32 k, s)
  | 0x15 => (takeSeq s).then fun k s => .ok (.getU32 k, s)
  | 0x16 => (takeSeq s).then fun k s => .ok (.getF32 k, s)
  | 0x17 => (takeSeq s).then fun k s => .ok (.getF64 k, s)
  | 0x18 => (takeSeq s).then fun k s => .ok (.getStr k, s)
  | 0x20 => (takeSeq s).then fun k s => .ok (.find k, s)
  | 0x21 => .ok (.clear, s)
  | 0x22 => .ok (.encode, s)
  | 0x23 => (takeSeq s).then fun d s => .ok (.decode d, s)
  | 0x30 => (takeSeq s).then fun d s => (takeNumber 4 s).then fun a s => (takeNumber 4 s).then fun b s =>
      .ok (.crcCalc d a b, s)
  | 0x40 => .ok (.poll, s)
  | 0x41 => (takeNumber 1 s).then fun c s => .ok (.send (BitVec.ofNat 8 c), s)
  | 0x42 => .ok (.available, s)
  | 0x43 => .ok (.statusRead, s)
  | 0x44 => .ok (.errClear, s)
  | 0x50 => (takeNumber 2 s).then fun v s => .ok (.descSet0 (BitVec.ofNat 16 v), s)
  | 0x51 => (takeNumber 2 s).then fun v s => .ok (.descSet1 (BitVec.ofNat 16 v), s)
  | 0x52 => (takeNumber 4 s).then fun v s => .ok (.descSet2 (BitVec.ofNat 32 v), s)
  | 0x53 => (takeNumber 1 s).then fun v s => .ok (.descSet3 (BitVec.ofNat 8 v), s)
  | 0x54 => (takeNumber 1 s).then fun v s => .ok (.descSet4 (BitVec.ofNat 8 v), s)
  | 0x55 => (takeNumber 1 s).then fun v s => .ok (.descSet5 (BitVec.ofNat 8 v), s)
  | 0x56 => (takeSeq s).then fun v s => .ok (.descSet6 v, s)
  | 0x57 => (takeSeq s).then fun v s => .ok (.descSet7 v, s)
  | 0x60 => .ok (.descGet0, s)
  | 0x61 => .ok (.descGet1, s)
  | 0x62 => .ok (.descGet2, s)
  | 0x63 => .ok (.descGet3, s)
  | 0x64 => .ok (.descGet4, s)
  | 0x65 => .ok (.descGet5, s)
  | 0x66 => .ok (.descGet6, s)
  | 0x67 => .ok (.descGet7, s)
  | _ => .error (.invalidCode code)

/-- Decode one host operation. -/
def decodeHostOp (s : Bytes) : Decoded Instr :=
  match s with
  | [] => .error .noBytes
  | code :: s => decodeSelected code s

/-! ### The receive steps (00_scope.md R12) and the whole decoder -/

/-- A pending byte spells `RX_BYTE` of it, no byte spells `RX_EMPTY` (45_tx_and_host.md R276). -/
def decodeRx (s : Bytes) : Decoded Instr :=
  match s with
  | [] => .ok (.rxEmpty, [])
  | b :: s => .ok (.rxByte b, s)

/-- The decoder, space by space. -/
def decode (cfg : Config) (space : Space) (s : Bytes) : Decoded Instr :=
  match space with
  | .frame => decodeFrame cfg s
  | .record => decodeRecord cfg s
  | .hostOp => decodeHostOp s
  | .rxStep => decodeRx s

/-! ### The encoder -/

/-- The frame of a command byte and a payload, laid out by the offsets of 30_encoding.md R91. -/
def encodeFrame (cmd : Byte) (payload : Bytes) : Bytes :=
  [headerMarker, packetIdMarker, hiByte (BitVec.ofNat 16 (payload.length + lenOverhead)),
      loByte (BitVec.ofNat 16 (payload.length + lenOverhead)), cmd] ++
    payload ++ [hiByte (crc payload), loByte (crc payload), terminatorMarker]

/-- `enc_rec(r)`: formats `REC_FIXED` and `REC_STRING` of 30_encoding.md R99 (42_codec.md R190 to R199). -/
def encodeRecord (cfg : Config) (r : Record) : Bytes :=
  match r.tag with
  | .str => tagCode cfg .str :: BitVec.ofNat 8 r.key.length :: (r.key ++ BitVec.ofNat 8 r.payload.length :: r.payload)
  | t => tagCode cfg t :: BitVec.ofNat 8 r.key.length :: (r.key ++ r.payload)

/-- A byte-sequence operand of a host operation. -/
def putSeq (k : Bytes) : Bytes :=
  match k with
  | [] => [0x00#8]
  | b :: k => 0x01#8 :: b :: putSeq k

/-- The encoding space of an instruction. -/
def spaceOf (i : Instr) : Space :=
  match i with
  | .getInfo _ => .frame
  | .sendData _ => .frame
  | .sendInfo _ => .frame
  | .stopData _ => .frame
  | .other _ _ => .frame
  | .recI8 _ _ => .record
  | .recU8 _ _ => .record
  | .recI16 _ _ => .record
  | .recU16 _ _ => .record
  | .recI32 _ _ => .record
  | .recU32 _ _ => .record
  | .recF32 _ _ => .record
  | .recF64 _ _ => .record
  | .recStr _ _ => .record
  | .setI8 _ _ => .hostOp
  | .setU8 _ _ => .hostOp
  | .setI16 _ _ => .hostOp
  | .setU16 _ _ => .hostOp
  | .setI32 _ _ => .hostOp
  | .setU32 _ _ => .hostOp
  | .setF32 _ _ => .hostOp
  | .setF64 _ _ => .hostOp
  | .setStr _ _ => .hostOp
  | .getI8 _ => .hostOp
  | .getU8 _ => .hostOp
  | .getI16 _ => .hostOp
  | .getU16 _ => .hostOp
  | .getI32 _ => .hostOp
  | .getU32 _ => .hostOp
  | .getF32 _ => .hostOp
  | .getF64 _ => .hostOp
  | .getStr _ => .hostOp
  | .find _ => .hostOp
  | .clear => .hostOp
  | .encode => .hostOp
  | .decode _ => .hostOp
  | .crcCalc _ _ _ => .hostOp
  | .poll => .hostOp
  | .send _ => .hostOp
  | .available => .hostOp
  | .statusRead => .hostOp
  | .errClear => .hostOp
  | .descSet0 _ => .hostOp
  | .descSet1 _ => .hostOp
  | .descSet2 _ => .hostOp
  | .descSet3 _ => .hostOp
  | .descSet4 _ => .hostOp
  | .descSet5 _ => .hostOp
  | .descSet6 _ => .hostOp
  | .descSet7 _ => .hostOp
  | .descGet0 => .hostOp
  | .descGet1 => .hostOp
  | .descGet2 => .hostOp
  | .descGet3 => .hostOp
  | .descGet4 => .hostOp
  | .descGet5 => .hostOp
  | .descGet6 => .hostOp
  | .descGet7 => .hostOp
  | .rxByte _ => .rxStep
  | .rxEmpty => .rxStep

/-- The bytes of an instruction in its own space. -/
def encode (cfg : Config) (i : Instr) : Bytes :=
  match i with
  | .getInfo p => encodeFrame cmdGetInfo p
  | .sendData p => encodeFrame cmdSendData p
  | .sendInfo p => encodeFrame cmdSendInfo p
  | .stopData p => encodeFrame cmdStopData p
  | .other c p => encodeFrame c p
  | .recI8 k p => encodeRecord cfg ⟨.i8, k, p⟩
  | .recU8 k p => encodeRecord cfg ⟨.u8, k, p⟩
  | .recI16 k p => encodeRecord cfg ⟨.i16, k, p⟩
  | .recU16 k p => encodeRecord cfg ⟨.u16, k, p⟩
  | .recI32 k p => encodeRecord cfg ⟨.i32, k, p⟩
  | .recU32 k p => encodeRecord cfg ⟨.u32, k, p⟩
  | .recF32 k p => encodeRecord cfg ⟨.f32, k, p⟩
  | .recF64 k p => encodeRecord cfg ⟨.f64, k, p⟩
  | .recStr k p => encodeRecord cfg ⟨.str, k, p⟩
  | .setI8 k v => 0x00#8 :: (putSeq k ++ beBytes 1 v.toNat)
  | .setU8 k v => 0x01#8 :: (putSeq k ++ beBytes 1 v.toNat)
  | .setI16 k v => 0x02#8 :: (putSeq k ++ beBytes 2 v.toNat)
  | .setU16 k v => 0x03#8 :: (putSeq k ++ beBytes 2 v.toNat)
  | .setI32 k v => 0x04#8 :: (putSeq k ++ beBytes 4 v.toNat)
  | .setU32 k v => 0x05#8 :: (putSeq k ++ beBytes 4 v.toNat)
  | .setF32 k v => 0x06#8 :: (putSeq k ++ beBytes 4 v.toNat)
  | .setF64 k v => 0x07#8 :: (putSeq k ++ beBytes 8 v.toNat)
  | .setStr k v => 0x08#8 :: (putSeq k ++ putSeq v)
  | .getI8 k => 0x10#8 :: putSeq k
  | .getU8 k => 0x11#8 :: putSeq k
  | .getI16 k => 0x12#8 :: putSeq k
  | .getU16 k => 0x13#8 :: putSeq k
  | .getI32 k => 0x14#8 :: putSeq k
  | .getU32 k => 0x15#8 :: putSeq k
  | .getF32 k => 0x16#8 :: putSeq k
  | .getF64 k => 0x17#8 :: putSeq k
  | .getStr k => 0x18#8 :: putSeq k
  | .find k => 0x20#8 :: putSeq k
  | .clear => [0x21#8]
  | .encode => [0x22#8]
  | .decode d => 0x23#8 :: putSeq d
  | .crcCalc d a b => 0x30#8 :: (putSeq d ++ (beBytes 4 a ++ beBytes 4 b))
  | .poll => [0x40#8]
  | .send c => 0x41#8 :: beBytes 1 c.toNat
  | .available => [0x42#8]
  | .statusRead => [0x43#8]
  | .errClear => [0x44#8]
  | .descSet0 v => 0x50#8 :: beBytes 2 v.toNat
  | .descSet1 v => 0x51#8 :: beBytes 2 v.toNat
  | .descSet2 v => 0x52#8 :: beBytes 4 v.toNat
  | .descSet3 v => 0x53#8 :: beBytes 1 v.toNat
  | .descSet4 v => 0x54#8 :: beBytes 1 v.toNat
  | .descSet5 v => 0x55#8 :: beBytes 1 v.toNat
  | .descSet6 v => 0x56#8 :: putSeq v
  | .descSet7 v => 0x57#8 :: putSeq v
  | .descGet0 => [0x60#8]
  | .descGet1 => [0x61#8]
  | .descGet2 => [0x62#8]
  | .descGet3 => [0x63#8]
  | .descGet4 => [0x64#8]
  | .descGet5 => [0x65#8]
  | .descGet6 => [0x66#8]
  | .descGet7 => [0x67#8]
  | .rxByte b => [b]
  | .rxEmpty => []

/-! ### The opcode table's words -/

/-- The bytes of a table word: byte `k` is bits `8k+7 .. 8k`. -/
def tableBytes (nbits w : Nat) : Bytes := leBytes (nbits / 8) w

/-- Zero bytes for the operands the table gives no bits: no host operation with operands of zeros is longer. -/
def operandZeros : Bytes := List.replicate 12 0x00#8

/-- What follows a frame's five table bytes: the payload and checksum of zeros, and the terminator, a fixed byte that the
table gives no bits (log 4). -/
def frameZeros (len : Nat) : Bytes :=
  List.replicate (len - lenOverhead) 0x00#8 ++ [0x00#8, 0x00#8, terminatorMarker]

/-- The whole frame of a 40-bit table word. -/
def tableFrame (w : Nat) : Bytes :=
  tableBytes 40 w ++ frameZeros (joinBytes (BitVec.ofNat 8 (w >>> 16)) (BitVec.ofNat 8 (w >>> 24))).toNat

/-- The instruction of a decoder's answer. -/
def answered (d : Decoded Instr) : Option Instr :=
  match d with
  | .ok (i, _) => some i
  | .error _ => none

/-- The decoder's answer to a word of spec/opcode_table.json under the default parameters: 40 bits are the start of a
frame, 8 bits a host operation's selection code (log 3), no bits `RX_EMPTY`. -/
def decodeTableWord (nbits w : Nat) : Option Instr :=
  match nbits with
  | 0 => answered (decode Config.standard .rxStep [])
  | 8 => answered (decode Config.standard .hostOp (tableBytes 8 w ++ operandZeros))
  | 40 => answered (decode Config.standard .frame (tableFrame w))
  | _ => none

end Sys2Proof
end

