-- ==== Sys2Proof/Machine/State.lean ====
section
/-! DEFINITION. The state of the block and of its environment, the statuses, the outputs, the reasons a step can stop,
and the state after reset. -/

namespace Sys2Proof.Machine

/-- The errors and statuses of 60_exceptions.md R301, in the order of their codes 0 to 14. They are data: none of them
stops the block (R300). -/
inductive Status where
  | ok
  | framingMismatch
  | checksumMismatch
  | terminatorMismatch
  | decodeOutOfRange
  | typeSizeMismatch
  | lengthError
  | unknownTag
  | keyTooLong
  | valueTooLong
  | txSuppressed
  | txTooLong
  | keyAbsent
  | rangeError
  | storeFull
  deriving DecidableEq, Repr

/-- The nine values of `rx_state`: which field of a frame the next byte belongs to (10_state.md R28). -/
inductive RxState where
  | idle
  | sawHeader
  | sawPktid
  | waitLenLo
  | waitCmd
  | waitPayload
  | waitChkHi
  | waitChkLo
  | waitTerm
  deriving DecidableEq, Repr

/-- The six values of `rx_last`: how the last frame attempt that reached a verdict ended (10_state.md R37). -/
inductive RxLast where
  | none
  | packetComplete
  | checksumError
  | terminatorError
  | lengthError
  | decodeError
  deriving DecidableEq, Repr

/-- What a step gives back (10_state.md R40; log 10). -/
inductive Output where
  /-- Nothing is returned (30_encoding.md R106: `CLEAR`, `POLL`, `ERR_CLEAR`; reset; the environment's turns). -/
  | silent
  /-- A status alone: `SET.*`, `DECODE`, `SEND`, `DESC_SET.*`, a refused `CRC_CALC`. -/
  | status (st : Status)
  /-- `GET.*`: a status and a value (41_record_store.md R157). -/
  | reading (st : Status) (v : Value)
  /-- `FIND`: an index or none (R152). -/
  | index (i : Option Nat)
  /-- `ENCODE`: a byte sequence (42_codec.md R200). -/
  | bytes (s : Bytes)
  /-- `CRC_CALC` of a well-formed range: status OK and the checksum (40_crc.md R136). -/
  | checksum (c : Half)
  /-- `AVAILABLE`: one bit (45_tx_and_host.md R278). -/
  | bit (b : Bool)
  /-- `STATUS_READ`: the status word (45_tx_and_host.md R279). -/
  | word (w : BitVec 17)
  /-- `DESC_GET.*`: a value (45_tx_and_host.md R282). -/
  | value (v : Value)
  /-- A receive step's error, or OK: a label for the trace, which no host sees (60_exceptions.md R302). -/
  | raised (st : Status)
  deriving DecidableEq, Repr

/-- Whose move is next (00_scope.md R9, R12; log 1). -/
inductive Turn where
  /-- The host issues the next operation of `hostPort`. -/
  | host
  /-- The transport's turn: `RX_BYTE` of the oldest pending byte, or `RX_EMPTY`. -/
  | receive
  /-- The environment appends bytes to the transport's queue (20_memory.md R67). -/
  | link (bytes : Bytes)
  /-- Reset, from outside the block (70_reset_and_hazards.md R340). -/
  | reset
  deriving DecidableEq, Repr

/-- Why a step stops with a fault. There is no such reason: "All protocol errors are local and non-fatal: the engine
always returns to the idle framing state and keeps accepting new frames" (60_exceptions.md R300; log 19). Safe: no
behaviour of the block is left out by it. -/
inductive Fault where
  deriving DecidableEq, Repr

/-- Why a step has no meaning to run. -/
inductive Refusal where
  /-- An instruction without a meaning yet, raised by an arm of `exec` only; no arm does. Safe. -/
  | notModelled (mnemonic : String)
  /-- Raised by `fetch` at a host's turn: the code selects no operation; "a decoder of these codes returns "invalid" and
  the state does not change" (30_encoding.md R107). Safe. -/
  | invalidOperation (code : Byte)
  /-- Raised by `fetch` at a host's turn: the bytes after a selection code do not spell its operands in the model's own
  form (log 2, 21). Safe: no call of the spec has such operands. -/
  | malformedOperands
  /-- Raised by `fetch` in every turn: the parameters are not ones the spec allows (30_encoding.md R100, 44_commands.md R258;
  R259: a model "must refuse that configuration"; log 8). Safe. -/
  | badConfiguration
  deriving DecidableEq, Repr

/-- The complete state (10_state.md R20), the transport and the time input (20_memory.md R67, 10_state.md R35), and the
model's own fields (`cfg`, `timeAdvance`, `turns`, `hostPort`, `out`). -/
structure State where
  /-- The OPEN parameters; no step writes them (00_scope.md R8; log 7). -/
  cfg : Config
  /-- The Record Store (10_state.md R21 to R26). -/
  x : List Record
  /-- `rx_state` (10_state.md R27, R28). -/
  rxState : RxState
  /-- `rx_len` (10_state.md R29). -/
  rxLen : Half
  /-- `cur_cmd` (10_state.md R29). -/
  curCmd : Byte
  /-- `rx_buf` (10_state.md R29, R30). -/
  rxBuf : Bytes
  /-- `rx_chk` (10_state.md R29). -/
  rxChk : Half
  /-- `data_available`, the latch (10_state.md R31). -/
  dataAvailable : Bool
  /-- `read_flag` (10_state.md R32). -/
  readFlag : Bool
  /-- `ERR`: bit 0 `CHK`, 1 `TERM`, 2 `LEN`, 3 `DEC` (10_state.md R33). -/
  err : BitVec 4
  /-- `suppress` (10_state.md R34). -/
  suppress : Bool
  /-- `t_stop` (10_state.md R35). -/
  tStop : Time
  /-- `rx_last` (10_state.md R37). -/
  rxLast : RxLast
  /-- `last_cmd` (10_state.md R37). -/
  lastCmd : Byte
  /-- The device descriptor (10_state.md R36). -/
  desc : Descriptor
  /-- `rx_fifo`, the oldest byte first (20_memory.md R67). -/
  rxFifo : Bytes
  /-- `tx_log`, the oldest frame first (20_memory.md R67). -/
  txLog : List Bytes
  /-- The time input's value when last read (10_state.md R35; log 9). -/
  now : Time
  /-- What the time source adds to `now` at each coming read of it (60_exceptions.md R321; log 9). -/
  timeAdvance : List Time
  /-- Whose moves are next (log 1). -/
  turns : List Turn
  /-- The bytes of the host's coming operations (log 2). -/
  hostPort : Bytes
  /-- What the last step gave back (log 10). -/
  out : Output
  deriving DecidableEq, Repr

/-- The machine right after reset (10_state.md R41, 70_reset_and_hazards.md R340) with the default parameters, nothing
pending on the transport, no agent's turn planned (log 13). -/
def State.reset : State where
  cfg := Config.standard
  x := []
  rxState := .idle
  rxLen := 0
  curCmd := 0
  rxBuf := []
  rxChk := 0
  dataAvailable := false
  readFlag := false
  err := 0
  suppress := false
  tStop := 0
  rxLast := .none
  lastCmd := 0
  desc := Config.standard.descReset
  rxFifo := []
  txLog := []
  now := 0
  timeAdvance := []
  turns := []
  hostPort := []
  out := .silent

end Sys2Proof.Machine
end

