-- ==== Sys2Proof/Machine/Flags.lean ====
section
/-! DEFINITION. Codes and flags: status codes (60_exceptions.md R301), `rx_last` codes (10_state.md R37), the bits of `ERR`
(R33) and the status word (45_tx_and_host.md R279). -/

namespace Sys2Proof.Machine

/-- The code of a status (60_exceptions.md R301). -/
def statusCode : Status → Nat
  | .ok => 0
  | .framingMismatch => 1
  | .checksumMismatch => 2
  | .terminatorMismatch => 3
  | .decodeOutOfRange => 4
  | .typeSizeMismatch => 5
  | .lengthError => 6
  | .unknownTag => 7
  | .keyTooLong => 8
  | .valueTooLong => 9
  | .txSuppressed => 10
  | .txTooLong => 11
  | .keyAbsent => 12
  | .rangeError => 13
  | .storeFull => 14

/-- The code of `rx_last` (10_state.md R37). -/
def rxLastCode : RxLast → BitVec 3
  | .none => 0
  | .packetComplete => 1
  | .checksumError => 2
  | .terminatorError => 3
  | .lengthError => 4
  | .decodeError => 5

/-- `ERR.CHK` (10_state.md R33). -/
def errChk : BitVec 4 := 0b0001#4

/-- `ERR.TERM` (10_state.md R33). -/
def errTerm : BitVec 4 := 0b0010#4

/-- `ERR.LEN` (10_state.md R33). -/
def errLen : BitVec 4 := 0b0100#4

/-- `ERR.DEC` (10_state.md R33). -/
def errDec : BitVec 4 := 0b1000#4

/-- The status word, most significant field first: `suppress`, `data_available`, `rx_last`, `ERR`, `last_cmd`
(45_tx_and_host.md R279). -/
def statusWord (s : State) : BitVec 17 :=
  BitVec.ofBool s.suppress ++ BitVec.ofBool s.dataAvailable ++ rxLastCode s.rxLast ++ s.err ++ s.lastCmd

end Sys2Proof.Machine
end

