-- ==== Sys2Proof/Machine/Ops.lean ====
section
/-! DEFINITION. The named operations over the state: answering the host, reading the time, the Record Store's find, set
and get, the transport, raising an error, reset. -/

namespace Sys2Proof.Machine

/-- Every operation of the block completes: its meaning is a next state (60_exceptions.md R300). -/
abbrev Meaning := Host.Outcome State Fault Refusal

/-- End the step with an output (10_state.md R40). -/
def answer (o : Output) (s : State) : State := { s with out := o }

/-- Read the time input: the time source has moved on by the next entry of `timeAdvance`, or not at all (10_state.md R35,
60_exceptions.md R321; log 9). -/
def readTime (s : State) : State :=
  match s.timeAdvance with
  | [] => s
  | d :: ds => { s with now := s.now + d, timeAdvance := ds }

/-! ### The Record Store (41_record_store.md) -/

/-- `FIND(k)`: the lowest index whose key is `k` (R150, R152). -/
def findKey (x : List Record) (key : Bytes) : Option Nat :=
  x.findIdx? fun r => r.key == key

/-- The store already holds `STORE_MAX_RECORDS` Records (R153, R156). -/
def storeIsFull (cfg : Config) (x : List Record) : Bool :=
  cfg.storeMaxRecords == some x.length

/-- The store after `SET` of a Record, or the status that refuses it, in the order of R153's tests. -/
def storeSet (cfg : Config) (r : Record) (x : List Record) : Except Status (List Record) :=
  if keyMax < r.key.length then .error .keyTooLong
  else if r.tag = .str ∧ strMax < r.payload.length then .error .valueTooLong
  else
    match findKey x r.key with
    | none => if storeIsFull cfg x then .error .storeFull else .ok (x ++ [r])
    | some i =>
      if (x[i]?).map Record.tag = some r.tag then .ok (x.set i r)
      else .ok (x.eraseIdx i ++ [r])

/-- `SET.<T> key, value` once the value's bytes are formed (R153). -/
def setField (r : Record) (s : State) : State :=
  match storeSet s.cfg r s.x with
  | .ok x => answer (.status .ok) { s with x := x }
  | .error e => answer (.status e) s

/-- What `GET.<T>` answers about a Record it has found: only widths are compared (R157, R158). -/
def readRecord (o : ByteOrder) (t : Tag) (p : Bytes) : Output :=
  match fixedWidth t with
  | none => .reading .ok (valueOf o t p)
  | some w => if p.length = w then .reading .ok (valueOf o t p) else .reading .typeSizeMismatch (defaultOf t)

/-- `GET.<T> key` (R157): `read_flag` is set when the key is present, whatever the width. -/
def getField (t : Tag) (key : Bytes) (s : State) : State :=
  match s.x.find? fun r => r.key == key with
  | none => answer (.reading .keyAbsent (defaultOf t)) s
  | some r => answer (readRecord s.cfg.valueOrder t r.payload) { s with readFlag := true }

/-- Append one decoded Record, if the store has room (42_codec.md R201, R204, R205: no lookup). -/
def appendRecord (cfg : Config) (r : Record) (x : List Record) : Except Status (List Record) :=
  if storeIsFull cfg x then .error .storeFull else .ok (x ++ [r])

/-! ### The transport (20_memory.md R64 to R67) -/

/-- `transport.write(bytes)` (R66, R67): it always succeeds. -/
def transportWrite (frame : Bytes) (s : State) : State := { s with txLog := s.txLog ++ [frame] }

/-! ### Errors (60_exceptions.md)

The block has no trap: an error saves nothing and transfers control nowhere (R318), and there is nothing to return from
(R319). `raiseError` is what stands in the place of taking an exception: the writes that R302 to R315 list for it, for a
receive step and the dispatch inside it. -/

/-- The writes that an error makes in a receive step (R302 to R305, R307, R308, R315, R318). Every other status is only
returned, by the host operation that met it (R301). -/
def raiseError (e : Status) (s : State) : State :=
  match e with
  | .framingMismatch => { s with rxState := .idle }
  | .checksumMismatch =>
    { s with err := s.err ||| errChk, dataAvailable := false, rxLast := .checksumError, rxState := .idle }
  | .terminatorMismatch => { s with err := s.err ||| errTerm, rxLast := .terminatorError, rxState := .idle }
  | .lengthError => { s with err := s.err ||| errLen, rxLast := .lengthError, rxState := .idle }
  | .decodeOutOfRange => { s with x := [], err := s.err ||| errDec, dataAvailable := false, rxLast := .decodeError }
  | .unknownTag => { s with x := [], err := s.err ||| errDec, dataAvailable := false, rxLast := .decodeError }
  | .storeFull => { s with x := [], err := s.err ||| errDec, dataAvailable := false, rxLast := .decodeError }
  | .ok => s
  | .typeSizeMismatch => s
  | .keyTooLong => s
  | .valueTooLong => s
  | .txSuppressed => s
  | .txTooLong => s
  | .keyAbsent => s
  | .rangeError => s

/-- End a receive step with an error: its writes, and the trace label (R301, R302). -/
def raiseRx (e : Status) (s : State) : State := answer (.raised e) (raiseError e s)

/-! ### Reset (70_reset_and_hazards.md) -/

/-- Every register at its value of 10_state.md R41 (R340); the transport, the frames written, the time, the parameters and
what the agents will do stay (R341). -/
def resetBlock (s : State) : State :=
  { State.reset with
    cfg := s.cfg
    desc := s.cfg.descReset
    rxFifo := s.rxFifo
    txLog := s.txLog
    now := s.now
    timeAdvance := s.timeAdvance
    turns := s.turns
    hostPort := s.hostPort }

end Sys2Proof.Machine
end

