-- ==== Sys2Proof/Machine/Checksum.lean ====
section
/-! DEFINITION. CRC_CALC (40_crc.md R136). -/

namespace Sys2Proof.Machine

/-- `CRC_CALC s, start, end` over the half-open range; an ill-formed range is refused with a status only (R136). -/
def execCrcCalc (bytes : Bytes) (start stop : Nat) (s : State) : Meaning :=
  if start ≤ stop ∧ stop ≤ bytes.length then
    .next (answer (.checksum (crc ((bytes.take stop).drop start))) s)
  else .next (answer (.status .rangeError) s)

end Sys2Proof.Machine
end

