-- ==== Sys2Proof/Machine/Codec.lean ====
section
/-! DEFINITION. The payload encoder and decoder (42_codec.md): ENCODE, DECODE and the nine Record forms. -/

namespace Sys2Proof.Machine

/-- `ENCODE`'s result: the Records' encodings in store order (R200). -/
def encodeStore (cfg : Config) (x : List Record) : Bytes :=
  x.flatMap (encodeRecord cfg)

/-- The status of a Record that cannot be parsed: an unknown tag (R203), or a Record cut short (R202), which is the only
other reason `parseRecord` gives for a byte sequence that is not empty. -/
def decodeStatus : DecodeError → Status
  | .unknownTag _ => .unknownTag
  | _ => .decodeOutOfRange

/-- The loop of R201 from a store `x`, at most `fuel` Records. Each Record takes two bytes at least, so the length of the
sequence is fuel enough (`decodeLoop_fuel` in Laws/Codec.lean). -/
def decodeLoop (cfg : Config) : Nat → List Record → Bytes → Except Status (List Record)
  | _, x, [] => .ok x
  | 0, _, _ :: _ => .error .decodeOutOfRange
  | fuel + 1, x, b :: s =>
    match parseRecord cfg (b :: s) with
    | .error e => .error (decodeStatus e)
    | .ok (r, rest) =>
      match appendRecord cfg r x with
      | .error e => .error e
      | .ok x => decodeLoop cfg fuel x rest

/-- `DECODE(s)`: the Records of `s` in order, from an empty store, or the first failing test's status (R201). -/
def decodePayload (cfg : Config) (s : Bytes) : Except Status (List Record) :=
  decodeLoop cfg s.length [] s

/-- One round of R201's loop after the Record has been parsed: append it, or fail and empty the store (R204, R206;
log 6). -/
def appendField (r : Record) (s : State) : State :=
  match appendRecord s.cfg r s.x with
  | .ok x => answer (.status .ok) { s with x := x }
  | .error e => answer (.status e) { s with x := [] }

/-- `REC.I8` (R191): the Record is appended to the store being decoded (R201). -/
def execRecI8 (key payload : Bytes) (s : State) : Meaning :=
  .next (appendField ⟨.i8, key, payload⟩ s)

/-- `REC.U8` (R192): the Record is appended to the store being decoded (R201). -/
def execRecU8 (key payload : Bytes) (s : State) : Meaning :=
  .next (appendField ⟨.u8, key, payload⟩ s)

/-- `REC.I16` (R193): the Record is appended to the store being decoded (R201). -/
def execRecI16 (key payload : Bytes) (s : State) : Meaning :=
  .next (appendField ⟨.i16, key, payload⟩ s)

/-- `REC.U16` (R194): the Record is appended to the store being decoded (R201). -/
def execRecU16 (key payload : Bytes) (s : State) : Meaning :=
  .next (appendField ⟨.u16, key, payload⟩ s)

/-- `REC.I32` (R195): the Record is appended to the store being decoded (R201). -/
def execRecI32 (key payload : Bytes) (s : State) : Meaning :=
  .next (appendField ⟨.i32, key, payload⟩ s)

/-- `REC.U32` (R196): the Record is appended to the store being decoded (R201). -/
def execRecU32 (key payload : Bytes) (s : State) : Meaning :=
  .next (appendField ⟨.u32, key, payload⟩ s)

/-- `REC.F32` (R197): the Record is appended to the store being decoded (R201). -/
def execRecF32 (key payload : Bytes) (s : State) : Meaning :=
  .next (appendField ⟨.f32, key, payload⟩ s)

/-- `REC.F64` (R198): the Record is appended to the store being decoded (R201). -/
def execRecF64 (key payload : Bytes) (s : State) : Meaning :=
  .next (appendField ⟨.f64, key, payload⟩ s)

/-- `REC.STR` (R199): the Record is appended to the store being decoded (R201). -/
def execRecStr (key payload : Bytes) (s : State) : Meaning :=
  .next (appendField ⟨.str, key, payload⟩ s)

/-- `ENCODE` (R200). -/
def execEncode (s : State) : Meaning :=
  .next (answer (.bytes (encodeStore s.cfg s.x)) s)

/-- The store and the answer of `DECODE s` (R201): no flag is written; a failure leaves the store empty (R206). -/
def decodeInto (bytes : Bytes) (s : State) : State :=
  match decodePayload s.cfg bytes with
  | .ok x => answer (.status .ok) { s with x := x }
  | .error e => answer (.status e) { s with x := [] }

/-- `DECODE s` (R201). -/
def execDecode (bytes : Bytes) (s : State) : Meaning := .next (decodeInto bytes s)

end Sys2Proof.Machine
end

