-- ==== Sys2Proof/Machine/Descriptor.lean ====
section
/-! DEFINITION. The device descriptor's accessors (45_tx_and_host.md R281, R282): they touch no flag and no Record. -/

namespace Sys2Proof.Machine

/-- Write the descriptor and answer OK (R281). -/
def setDescriptor (d : Descriptor) (s : State) : State :=
  answer (.status .ok) { s with desc := d }

/-- Write a string field, if the string is at most 255 bytes (R281): `d` is the descriptor with it written. -/
def setDescriptorText (v : Bytes) (d : Descriptor) (s : State) : State :=
  if strMax < v.length then answer (.status .valueTooLong) s else setDescriptor d s

/-- Answer a descriptor field (R282). -/
def getDescriptor (v : Value) (s : State) : State := answer (.value v) s

/-- `DESC_SET.0 v` (R281). -/
def execDescSet0 (v : BitVec 16) (s : State) : Meaning :=
  .next (setDescriptor { s.desc with classId := v } s)

/-- `DESC_SET.1 v` (R281). -/
def execDescSet1 (v : BitVec 16) (s : State) : Meaning :=
  .next (setDescriptor { s.desc with typeId := v } s)

/-- `DESC_SET.2 v` (R281). -/
def execDescSet2 (v : BitVec 32) (s : State) : Meaning :=
  .next (setDescriptor { s.desc with serial := v } s)

/-- `DESC_SET.3 v` (R281). -/
def execDescSet3 (v : BitVec 8) (s : State) : Meaning :=
  .next (setDescriptor { s.desc with verMajor := v } s)

/-- `DESC_SET.4 v` (R281). -/
def execDescSet4 (v : BitVec 8) (s : State) : Meaning :=
  .next (setDescriptor { s.desc with verMinor := v } s)

/-- `DESC_SET.5 v` (R281). -/
def execDescSet5 (v : BitVec 8) (s : State) : Meaning :=
  .next (setDescriptor { s.desc with verRev := v } s)

/-- `DESC_SET.6 v` (R281). -/
def execDescSet6 (v : Bytes) (s : State) : Meaning :=
  .next (setDescriptorText v { s.desc with name := v } s)

/-- `DESC_SET.7 v` (R281). -/
def execDescSet7 (v : Bytes) (s : State) : Meaning :=
  .next (setDescriptorText v { s.desc with info := v } s)

/-- `DESC_GET.0` (R282). -/
def execDescGet0 (s : State) : Meaning :=
  .next (getDescriptor (.unsigned s.desc.classId.toNat) s)

/-- `DESC_GET.1` (R282). -/
def execDescGet1 (s : State) : Meaning :=
  .next (getDescriptor (.unsigned s.desc.typeId.toNat) s)

/-- `DESC_GET.2` (R282). -/
def execDescGet2 (s : State) : Meaning :=
  .next (getDescriptor (.unsigned s.desc.serial.toNat) s)

/-- `DESC_GET.3` (R282). -/
def execDescGet3 (s : State) : Meaning :=
  .next (getDescriptor (.unsigned s.desc.verMajor.toNat) s)

/-- `DESC_GET.4` (R282). -/
def execDescGet4 (s : State) : Meaning :=
  .next (getDescriptor (.unsigned s.desc.verMinor.toNat) s)

/-- `DESC_GET.5` (R282). -/
def execDescGet5 (s : State) : Meaning :=
  .next (getDescriptor (.unsigned s.desc.verRev.toNat) s)

/-- `DESC_GET.6` (R282). -/
def execDescGet6 (s : State) : Meaning :=
  .next (getDescriptor (.text s.desc.name) s)

/-- `DESC_GET.7` (R282). -/
def execDescGet7 (s : State) : Meaning :=
  .next (getDescriptor (.text s.desc.info) s)

end Sys2Proof.Machine
end

