-- ==== Sys2Proof/Machine/Transmit.lean ====
section
/-! DEFINITION. The transmit framer (45_tx_and_host.md R270 to R273): frame assembly, the suppression window, SEND. -/

namespace Sys2Proof.Machine

/-- `MemWrite(B + a, 2, v)`: two bytes written in a byte buffer, the more significant first (00_scope.md R14). -/
def memWriteHalf (buf : Bytes) (a : Nat) (v : Half) : Bytes :=
  (buf.set a (hiByte v)).set (a + 1) (loByte v)

/-- `frame_of(cmd, enc)`: placeholders first, then both backfills (R271). -/
def frameOf (cmd : Byte) (enc : Bytes) : Bytes :=
  let txBuf := [headerMarker, packetIdMarker, 0x00#8, 0x00#8, cmd] ++ enc ++ [0x00#8, 0x00#8, terminatorMarker]
  let txBuf := memWriteHalf txBuf 2 (BitVec.ofNat 16 (enc.length + lenOverhead))
  memWriteHalf txBuf (5 + enc.length) (crc enc)

/-- Time-units since the last `STOP_DATA`: the modular difference (R273). -/
def elapsed (s : State) : Nat := (s.now - s.tStop).toNat

/-- The suppression window is active (R270, R273). -/
def windowActive (s : State) : Bool := s.suppress && decide (elapsed s < suppressWindow)

/-- The transmit path of R270 once `now` has been read: its status, and the state. -/
def transmit (cmd : Byte) (s : State) : Status × State :=
  if windowActive s then (.txSuppressed, s)
  else
    let s := { s with suppress := false }
    let enc := encodeStore s.cfg s.x
    if payloadMax < enc.length then (.txTooLong, s)
    else (.ok, transportWrite (frameOf cmd enc) s)

/-- `SEND cmd` (R270). -/
def execSend (cmd : Byte) (s : State) : Meaning :=
  .next (answer (.status (transmit cmd (readTime s)).1) (transmit cmd (readTime s)).2)

end Sys2Proof.Machine
end

