-- ==== Sys2Proof/Machine/Command.lean ====
section
/-! DEFINITION. Command dispatch (44_commands.md): what a received frame that passed validation does. -/

namespace Sys2Proof.Machine

/-- Packet complete: what the verdict writes for a good frame, whatever its command (43_rx_framer.md R232). -/
def acceptFrame (cmd : Byte) (s : State) : State :=
  { s with rxLast := .packetComplete, lastCmd := cmd, rxState := .idle }

/-- The eight Records of the descriptor response, in order (44_commands.md R251, R258). -/
def descriptorRecords (cfg : Config) (d : Descriptor) : List Record :=
  [⟨.u16, cfg.infoKeys.classId, bytesU16 cfg.valueOrder d.classId⟩,
    ⟨.u16, cfg.infoKeys.typeId, bytesU16 cfg.valueOrder d.typeId⟩,
    ⟨.u32, cfg.infoKeys.serial, bytesU32 cfg.valueOrder d.serial⟩,
    ⟨.u8, cfg.infoKeys.verMajor, bytesU8 d.verMajor⟩,
    ⟨.u8, cfg.infoKeys.verMinor, bytesU8 d.verMinor⟩,
    ⟨.u8, cfg.infoKeys.verRev, bytesU8 d.verRev⟩,
    ⟨.str, cfg.infoKeys.name, bytesStr d.name⟩,
    ⟨.str, cfg.infoKeys.info, bytesStr d.info⟩]

/-- `SET` of a Record inside the dispatch: a refused one changes nothing and its status is dropped (R251, R259 (d)). -/
def putField (cfg : Config) (x : List Record) (r : Record) : List Record :=
  match storeSet cfg r x with
  | .ok x => x
  | .error _ => x

/-- The store of the descriptor response: cleared, then the eight `SET`s (R251). -/
def descriptorStore (cfg : Config) (d : Descriptor) : List Record :=
  (descriptorRecords cfg d).foldl (putField cfg) []

/-- `GET_INFO` (R251, R259): the store is overwritten, then `SEND 0x69` with this step's `now`; its status is dropped. -/
def getInfoResponse (s : State) : State :=
  (transmit cmdSendInfo (readTime { s with x := descriptorStore s.cfg s.desc })).2

/-- `STOP_DATA` (R252): `suppress` is set and `now` recorded. -/
def startSuppression (s : State) : State :=
  { readTime s with suppress := true, tStop := (readTime s).now }

/-! Each command below starts from the verdict's writes for its frame (43_rx_framer.md R232). -/

/-- `GET_INFO` in a good frame (R251): the payload is not looked at. -/
def onGetInfo (s : State) : State :=
  answer (.raised .ok) (getInfoResponse (acceptFrame cmdGetInfo s))

/-- `STOP_DATA` in a good frame (R252): the payload is not looked at. -/
def onStopData (s : State) : State :=
  answer (.raised .ok) (startSuppression (acceptFrame cmdStopData s))

/-- `SEND_DATA` in a good frame: an empty payload is a no-op (R255), one that decodes replaces the store, sets the latch and
clears `read_flag` (R253), one that does not decode is an error (R254). -/
def onSendData (payload : Bytes) (s : State) : State :=
  match payload with
  | [] => answer (.raised .ok) (acceptFrame cmdSendData s)
  | b :: p =>
    match decodePayload s.cfg (b :: p) with
    | .ok x => answer (.raised .ok) { acceptFrame cmdSendData s with x := x, dataAvailable := true, readFlag := false }
    | .error e => raiseRx e (acceptFrame cmdSendData s)

/-- A command that is not dispatched, in a good frame (R256, R257): nothing beyond the verdict's writes. -/
def onIgnored (cmd : Byte) (s : State) : State :=
  answer (.raised .ok) (acceptFrame cmd s)

/-- The wire command `GET_INFO` (R251). -/
def execGetInfo (_payload : Bytes) (s : State) : Meaning := .next (onGetInfo s)

/-- The wire command `SEND_DATA` (R253 to R255). -/
def execSendData (payload : Bytes) (s : State) : Meaning := .next (onSendData payload s)

/-- The wire command `SEND_INFO` (R256): ignored. -/
def execSendInfo (_payload : Bytes) (s : State) : Meaning := .next (onIgnored cmdSendInfo s)

/-- The wire command `STOP_DATA` (R252). -/
def execStopData (_payload : Bytes) (s : State) : Meaning := .next (onStopData s)

/-- Any other wire command (R257): ignored. -/
def execOther (cmd : Byte) (_payload : Bytes) (s : State) : Meaning := .next (onIgnored cmd s)

/-- `dispatch(cmd, payload)` (R250), with the verdict's writes before it (43_rx_framer.md R232). -/
def dispatch (cmd : Byte) (payload : Bytes) (s : State) : State :=
  if cmd = cmdGetInfo then onGetInfo s
  else if cmd = cmdStopData then onStopData s
  else if cmd = cmdSendData then onSendData payload s
  else onIgnored cmd s

end Sys2Proof.Machine
end

