-- ==== Sys2Proof/Machine/Framer.lean ====
section
/-! DEFINITION. The receive framer (43_rx_framer.md), one definition for each value of `rx_state`, the empty poll and POLL
(45_tx_and_host.md R276, R277). -/

namespace Sys2Proof.Machine

/-- End a receive step that met no error. -/
def rxDone (s : State) : State := answer (.raised .ok) s

/-- `rx_state = IDLE` (R222). -/
def rxIdle (b : Byte) (s : State) : State :=
  if b = headerMarker then rxDone { s with rxState := .sawHeader } else raiseRx .framingMismatch s

/-- `rx_state = SAW_HEADER` (R223): a discarded byte is not looked at again. -/
def rxSawHeader (b : Byte) (s : State) : State :=
  if b = packetIdMarker then rxDone { s with rxState := .sawPktid } else raiseRx .framingMismatch s

/-- `rx_state = SAW_PKTID` (R224). -/
def rxSawPktid (b : Byte) (s : State) : State :=
  rxDone { s with rxLen := joinBytes b 0x00#8, rxState := .waitLenLo }

/-- `rx_state = WAIT_LEN_LO` (R225): the declared length is complete and is checked. -/
def rxWaitLenLo (b : Byte) (s : State) : State :=
  let len := joinBytes (hiByte s.rxLen) b
  let s := { s with rxLen := len }
  if len.toNat < lenOverhead ∨ s.cfg.rxMaxPayload < len.toNat - lenOverhead then raiseRx .lengthError s
  else rxDone { s with rxState := .waitCmd }

/-- `P = rx_len − 4` (30_encoding.md R94). -/
def payloadLen (s : State) : Nat := s.rxLen.toNat - lenOverhead

/-- `rx_state = WAIT_CMD` (R226). -/
def rxWaitCmd (b : Byte) (s : State) : State :=
  rxDone { s with
    curCmd := b
    rxBuf := []
    rxState := if payloadLen s = 0 then .waitChkHi else .waitPayload }

/-- `rx_state = WAIT_PAYLOAD` (R227). -/
def rxWaitPayload (b : Byte) (s : State) : State :=
  rxDone { s with
    rxBuf := s.rxBuf ++ [b]
    rxState := if (s.rxBuf ++ [b]).length = payloadLen s then .waitChkHi else .waitPayload }

/-- `rx_state = WAIT_CHK_HI` (R228). -/
def rxWaitChkHi (b : Byte) (s : State) : State :=
  rxDone { s with rxChk := joinBytes b 0x00#8, rxState := .waitChkLo }

/-- `rx_state = WAIT_CHK_LO` (R229). -/
def rxWaitChkLo (b : Byte) (s : State) : State :=
  rxDone { s with rxChk := joinBytes (hiByte s.rxChk) b, rxState := .waitTerm }

/-- `rx_state = WAIT_TERM`: the verdict, the checksum judged before the terminator (R230 to R233). -/
def rxWaitTerm (b : Byte) (s : State) : State :=
  if crc s.rxBuf ≠ s.rxChk then raiseRx .checksumMismatch s
  else if b ≠ terminatorMarker then raiseRx .terminatorMismatch s
  else dispatch s.curCmd s.rxBuf s

/-- The one rule of the current `rx_state`, for a byte already popped (R221). -/
def rxByte (b : Byte) (s : State) : State :=
  match s.rxState with
  | .idle => rxIdle b s
  | .sawHeader => rxSawHeader b s
  | .sawPktid => rxSawPktid b s
  | .waitLenLo => rxWaitLenLo b s
  | .waitCmd => rxWaitCmd b s
  | .waitPayload => rxWaitPayload b s
  | .waitChkHi => rxWaitChkHi b s
  | .waitChkLo => rxWaitChkLo b s
  | .waitTerm => rxWaitTerm b s

/-- `RX_BYTE(b)` (R221): `fetch` has popped `b`. -/
def execRxByte (b : Byte) (s : State) : Meaning := .next (rxByte b s)

/-- The empty poll (45_tx_and_host.md R277): in every `rx_state`, and a partial frame is kept. -/
def rxEmpty (s : State) : State :=
  rxDone { s with dataAvailable := if s.readFlag then false else s.dataAvailable }

/-- `RX_EMPTY` (45_tx_and_host.md R277). -/
def execRxEmpty (s : State) : Meaning := .next (rxEmpty s)

/-- Receive steps over the bytes `q` that wait in the transport, each popped before its step (45_tx_and_host.md R276). -/
def drain : Bytes → State → State
  | [], s => s
  | b :: q, s => drain q (rxByte b { s with rxFifo := q })

/-- `POLL` (45_tx_and_host.md R276): `RX_EMPTY` if no byte is pending, else `RX_BYTE` for every pending byte; nothing is
returned to the caller. -/
def execPoll (s : State) : Meaning :=
  match s.rxFifo with
  | [] => .next (answer .silent (rxEmpty s))
  | b :: q => .next (answer .silent (drain (b :: q) s))

end Sys2Proof.Machine
end

