-- ==== Sys2Proof/Machine/Status.lean ====
section
/-! DEFINITION. The latch's reader and the status operations (45_tx_and_host.md R278 to R280). -/

namespace Sys2Proof.Machine

/-- `AVAILABLE` (R278): reading the latch does not clear it. -/
def execAvailable (s : State) : Meaning :=
  .next (answer (.bit s.dataAvailable) s)

/-- `STATUS_READ` (R279). -/
def execStatusRead (s : State) : Meaning :=
  .next (answer (.word (statusWord s)) s)

/-- `ERR_CLEAR` (R280). -/
def execErrClear (s : State) : Meaning :=
  .next (answer .silent { s with err := 0 })

end Sys2Proof.Machine
end

