-- ==== Sys2Proof/Machine/Store.lean ====
section
/-! DEFINITION. The Typed Record Store (41_record_store.md): SET, GET, FIND, CLEAR. -/

namespace Sys2Proof.Machine

/-- `SET.I8 key, v` (R160). -/
def execSetI8 (key : Bytes) (v : BitVec 8) (s : State) : Meaning :=
  .next (setField ⟨.i8, key, bytesI8 v⟩ s)

/-- `SET.U8 key, v` (R161). -/
def execSetU8 (key : Bytes) (v : BitVec 8) (s : State) : Meaning :=
  .next (setField ⟨.u8, key, bytesU8 v⟩ s)

/-- `SET.I16 key, v` (R162). -/
def execSetI16 (key : Bytes) (v : BitVec 16) (s : State) : Meaning :=
  .next (setField ⟨.i16, key, bytesI16 s.cfg.valueOrder v⟩ s)

/-- `SET.U16 key, v` (R163). -/
def execSetU16 (key : Bytes) (v : BitVec 16) (s : State) : Meaning :=
  .next (setField ⟨.u16, key, bytesU16 s.cfg.valueOrder v⟩ s)

/-- `SET.I32 key, v` (R164). -/
def execSetI32 (key : Bytes) (v : BitVec 32) (s : State) : Meaning :=
  .next (setField ⟨.i32, key, bytesI32 s.cfg.valueOrder v⟩ s)

/-- `SET.U32 key, v` (R165). -/
def execSetU32 (key : Bytes) (v : BitVec 32) (s : State) : Meaning :=
  .next (setField ⟨.u32, key, bytesU32 s.cfg.valueOrder v⟩ s)

/-- `SET.F32 key, v` (R166). -/
def execSetF32 (key : Bytes) (v : BitVec 32) (s : State) : Meaning :=
  .next (setField ⟨.f32, key, bytesF32 s.cfg.valueOrder v⟩ s)

/-- `SET.F64 key, v` (R167). -/
def execSetF64 (key : Bytes) (v : BitVec 64) (s : State) : Meaning :=
  .next (setField ⟨.f64, key, bytesF64 s.cfg.valueOrder v⟩ s)

/-- `SET.STR key, s` (R168). -/
def execSetStr (key v : Bytes) (s : State) : Meaning :=
  .next (setField ⟨.str, key, bytesStr v⟩ s)

/-- `GET.I8 key` (R170). -/
def execGetI8 (key : Bytes) (s : State) : Meaning :=
  .next (getField .i8 key s)

/-- `GET.U8 key` (R171). -/
def execGetU8 (key : Bytes) (s : State) : Meaning :=
  .next (getField .u8 key s)

/-- `GET.I16 key` (R172). -/
def execGetI16 (key : Bytes) (s : State) : Meaning :=
  .next (getField .i16 key s)

/-- `GET.U16 key` (R173). -/
def execGetU16 (key : Bytes) (s : State) : Meaning :=
  .next (getField .u16 key s)

/-- `GET.I32 key` (R174). -/
def execGetI32 (key : Bytes) (s : State) : Meaning :=
  .next (getField .i32 key s)

/-- `GET.U32 key` (R175). -/
def execGetU32 (key : Bytes) (s : State) : Meaning :=
  .next (getField .u32 key s)

/-- `GET.F32 key` (R176). -/
def execGetF32 (key : Bytes) (s : State) : Meaning :=
  .next (getField .f32 key s)

/-- `GET.F64 key` (R177). -/
def execGetF64 (key : Bytes) (s : State) : Meaning :=
  .next (getField .f64 key s)

/-- `GET.STR key` (R178). -/
def execGetStr (key : Bytes) (s : State) : Meaning :=
  .next (getField .str key s)

/-- `FIND key` (R152): `read_flag` is not written. -/
def execFind (key : Bytes) (s : State) : Meaning :=
  .next (answer (.index (findKey s.x key)) s)

/-- `CLEAR` (R151): the flags keep their values. -/
def execClear (s : State) : Meaning :=
  .next (answer .silent { s with x := [] })

end Sys2Proof.Machine
end

