-- ==== Sys2Proof/Machine/Dispatch.lean ====
section
/-! DEFINITION. What each instruction does: one arm for each row of spec/opcode_table.json, one meaning for each arm. -/

namespace Sys2Proof.Machine

def exec (i : Instr) (s : State) : Host.Outcome State Fault Refusal :=
  match i with
  | .getInfo payload => Sys2Proof.Machine.execGetInfo payload s
  | .sendData payload => Sys2Proof.Machine.execSendData payload s
  | .sendInfo payload => Sys2Proof.Machine.execSendInfo payload s
  | .stopData payload => Sys2Proof.Machine.execStopData payload s
  | .other cmd payload => Sys2Proof.Machine.execOther cmd payload s
  | .recI8 key payload => Sys2Proof.Machine.execRecI8 key payload s
  | .recU8 key payload => Sys2Proof.Machine.execRecU8 key payload s
  | .recI16 key payload => Sys2Proof.Machine.execRecI16 key payload s
  | .recU16 key payload => Sys2Proof.Machine.execRecU16 key payload s
  | .recI32 key payload => Sys2Proof.Machine.execRecI32 key payload s
  | .recU32 key payload => Sys2Proof.Machine.execRecU32 key payload s
  | .recF32 key payload => Sys2Proof.Machine.execRecF32 key payload s
  | .recF64 key payload => Sys2Proof.Machine.execRecF64 key payload s
  | .recStr key payload => Sys2Proof.Machine.execRecStr key payload s
  | .setI8 key v => Sys2Proof.Machine.execSetI8 key v s
  | .setU8 key v => Sys2Proof.Machine.execSetU8 key v s
  | .setI16 key v => Sys2Proof.Machine.execSetI16 key v s
  | .setU16 key v => Sys2Proof.Machine.execSetU16 key v s
  | .setI32 key v => Sys2Proof.Machine.execSetI32 key v s
  | .setU32 key v => Sys2Proof.Machine.execSetU32 key v s
  | .setF32 key v => Sys2Proof.Machine.execSetF32 key v s
  | .setF64 key v => Sys2Proof.Machine.execSetF64 key v s
  | .setStr key v => Sys2Proof.Machine.execSetStr key v s
  | .getI8 key => Sys2Proof.Machine.execGetI8 key s
  | .getU8 key => Sys2Proof.Machine.execGetU8 key s
  | .getI16 key => Sys2Proof.Machine.execGetI16 key s
  | .getU16 key => Sys2Proof.Machine.execGetU16 key s
  | .getI32 key => Sys2Proof.Machine.execGetI32 key s
  | .getU32 key => Sys2Proof.Machine.execGetU32 key s
  | .getF32 key => Sys2Proof.Machine.execGetF32 key s
  | .getF64 key => Sys2Proof.Machine.execGetF64 key s
  | .getStr key => Sys2Proof.Machine.execGetStr key s
  | .find key => Sys2Proof.Machine.execFind key s
  | .clear => Sys2Proof.Machine.execClear s
  | .encode => Sys2Proof.Machine.execEncode s
  | .decode bytes => Sys2Proof.Machine.execDecode bytes s
  | .crcCalc bytes start stop => Sys2Proof.Machine.execCrcCalc bytes start stop s
  | .poll => Sys2Proof.Machine.execPoll s
  | .send cmd => Sys2Proof.Machine.execSend cmd s
  | .available => Sys2Proof.Machine.execAvailable s
  | .statusRead => Sys2Proof.Machine.execStatusRead s
  | .errClear => Sys2Proof.Machine.execErrClear s
  | .descSet0 v => Sys2Proof.Machine.execDescSet0 v s
  | .descSet1 v => Sys2Proof.Machine.execDescSet1 v s
  | .descSet2 v => Sys2Proof.Machine.execDescSet2 v s
  | .descSet3 v => Sys2Proof.Machine.execDescSet3 v s
  | .descSet4 v => Sys2Proof.Machine.execDescSet4 v s
  | .descSet5 v => Sys2Proof.Machine.execDescSet5 v s
  | .descSet6 v => Sys2Proof.Machine.execDescSet6 v s
  | .descSet7 v => Sys2Proof.Machine.execDescSet7 v s
  | .descGet0 => Sys2Proof.Machine.execDescGet0 s
  | .descGet1 => Sys2Proof.Machine.execDescGet1 s
  | .descGet2 => Sys2Proof.Machine.execDescGet2 s
  | .descGet3 => Sys2Proof.Machine.execDescGet3 s
  | .descGet4 => Sys2Proof.Machine.execDescGet4 s
  | .descGet5 => Sys2Proof.Machine.execDescGet5 s
  | .descGet6 => Sys2Proof.Machine.execDescGet6 s
  | .descGet7 => Sys2Proof.Machine.execDescGet7 s
  | .rxByte b => Sys2Proof.Machine.execRxByte b s
  | .rxEmpty => Sys2Proof.Machine.execRxEmpty s

end Sys2Proof.Machine
end

