-- ==== Sys2Proof/Machine/Fetch.lean ====
section
/-! DEFINITION. Where a step's instruction comes from (log 1): the turn's agent supplies it, the host from `hostPort`, the
transport from `rx_fifo`. -/

namespace Sys2Proof.Machine

/-- What a turn brings. -/
inductive Fetched where
  /-- An instruction to run, in the state with its bytes taken. -/
  | run (i : Instr) (s : State)
  /-- No instruction: the environment or reset moved, or nobody did. -/
  | moved (s : State)
  /-- Nothing can be run. -/
  | refuse (r : Refusal)
  deriving DecidableEq, Repr

/-- Why the host's bytes spell no operation: no such code (30_encoding.md R107), or operands that are not in the model's
form, which is the only other reason `decodeHostOp` gives for bytes that are not empty (log 21). -/
def portRefusal : DecodeError → Refusal
  | .invalidCode b => .invalidOperation b
  | _ => .malformedOperands

/-- The host's turn: the next operation of its bytes; a host with no operation to issue does nothing (log 21). -/
def fetchHost (s : State) : Fetched :=
  match s.hostPort with
  | [] => .moved (answer .silent s)
  | b :: port =>
    match decode s.cfg .hostOp (b :: port) with
    | .ok (i, rest) => .run i { s with hostPort := rest }
    | .error e => .refuse (portRefusal e)

/-- The transport's turn: the oldest pending byte spells `RX_BYTE` and is popped, no byte spells `RX_EMPTY`
(43_rx_framer.md R221, 45_tx_and_host.md R276, R277). -/
def fetchReceive (s : State) : Fetched :=
  match decode s.cfg .rxStep s.rxFifo with
  | .ok (i, rest) => .run i { s with rxFifo := rest }
  | .error e => .refuse (portRefusal e)

/-- A turn, in the state with the turn taken. -/
def fetchTurn (t : Turn) (s : State) : Fetched :=
  match t with
  | .host => fetchHost s
  | .receive => fetchReceive s
  | .link bytes => .moved (answer .silent { s with rxFifo := s.rxFifo ++ bytes })
  | .reset => .moved (resetBlock s)

/-- The next step's instruction. With no turn planned "the block does nothing until an agent takes a step"
(70_reset_and_hazards.md R343); a configuration the spec does not allow is refused (log 8). -/
def fetch (s : State) : Fetched :=
  if s.cfg.Wf then
    match s.turns with
    | [] => .moved s
    | t :: ts => fetchTurn t { s with turns := ts }
  else .refuse .badConfiguration

/-- A frame whose every byte but the terminator has been received: the framer waits for the terminator with the frame's
fields in its registers (43_rx_framer.md R222 to R229), and the terminator is the next pending byte (log 4). -/
def awaitTerminator (cmd : Byte) (payload : Bytes) (s : State) : State :=
  { s with
    rxState := .waitTerm
    rxLen := BitVec.ofNat 16 (payload.length + lenOverhead)
    curCmd := cmd
    rxBuf := payload
    rxChk := crc payload
    rxFifo := terminatorMarker :: s.rxFifo }

/-- Place an instruction where its agent's next turn takes it from: a host operation at the head of `hostPort`, a received
byte at the head of `rx_fifo`, an empty poll by an empty `rx_fifo`, a wire command in the framer's registers (log 3, 4). -/
def placeWord (nbits w : Nat) (s : State) : State :=
  match nbits with
  | 0 => { s with rxFifo := [], turns := .receive :: s.turns }
  | 40 =>
    let frame := tableFrame w
    { awaitTerminator (frame.getD 4 0) ((frame.drop 5).take (frame.length - 8)) s with turns := .receive :: s.turns }
  | _ => { s with hostPort := tableBytes nbits w ++ operandZeros ++ s.hostPort, turns := .host :: s.turns }

end Sys2Proof.Machine
end

