-- ==== Sys2Proof/Machine/Step.lean ====
section
/-! DEFINITION. One step of the machine: fetch what the next turn brings and run it. -/

namespace Sys2Proof.Machine

/-- One primitive step (00_scope.md R12), a `POLL` counting as one (log 16). -/
def step (s : State) : Host.Outcome State Fault Refusal :=
  match fetch s with
  | .run i t => exec i t
  | .moved t => .next t
  | .refuse r => .refused r

/-- The state with an opcode-table word stored where the next step takes its instruction from (log 1, 3, 4). -/
def State.withFetchWord (s : State) (nbits w : Nat) : State := placeWord nbits w s

end Sys2Proof.Machine
end

