-- ==== Sys2Proof/Safety.lean ====
section
/-! DEFINITION. The terms that claims about the machine use: the invariants, runs of instructions, and the spec's own
formulas for encodings and values, written apart from the machine's. -/

namespace Sys2Proof.Machine

/-! ### Invariants -/

/-- INV-WIDTH (10_state.md R23). -/
abbrev StoreFits (x : List Record) : Prop := ∀ r ∈ x, recordFits r = true

/-- INV-UNIQUE (10_state.md R24). -/
abbrev KeysUnique (x : List Record) : Prop := (x.map Record.key).Nodup

/-- The store holds at most `STORE_MAX_RECORDS` Records (41_record_store.md R156). -/
abbrev StoreInBounds (cfg : Config) (x : List Record) : Prop := ∀ n ∈ cfg.storeMaxRecords, x.length ≤ n

/-- `rx_len` has been checked (43_rx_framer.md R225). -/
def lengthChecked (s : State) : Bool :=
  decide (lenOverhead ≤ s.rxLen.toNat) && decide (payloadLen s ≤ s.cfg.rxMaxPayload)

/-- What `rx_state` says of `rx_len` and `rx_buf` (10_state.md R28, R29). -/
def framerSound (s : State) : Bool :=
  match s.rxState with
  | .idle => true
  | .sawHeader => true
  | .sawPktid => true
  | .waitLenLo => true
  | .waitCmd => lengthChecked s
  | .waitPayload => lengthChecked s && decide (s.rxBuf.length < payloadLen s)
  | .waitChkHi => lengthChecked s && decide (s.rxBuf.length = payloadLen s)
  | .waitChkLo => lengthChecked s && decide (s.rxBuf.length = payloadLen s)
  | .waitTerm => lengthChecked s && decide (s.rxBuf.length = payloadLen s)

/-- The invariant that every step keeps: parameters the spec allows, INV-WIDTH, the store's and the descriptor's bounds, a
receive buffer within its capacity (10_state.md R20), and a framer whose registers agree. -/
abbrev SoundState (s : State) : Prop :=
  s.cfg.Wf ∧ StoreFits s.x ∧ StoreInBounds s.cfg s.x ∧ s.desc.Wf ∧ s.rxBuf.length ≤ s.cfg.rxMaxPayload ∧
    framerSound s = true

/-! ### Runs -/

/-- Run instructions in order, stopping at the first that does not complete. -/
def runAll : List Instr → State → Meaning
  | [], s => .next s
  | i :: is, s =>
    match exec i s with
    | .next t => runAll is t
    | .fault r => .fault r
    | .refused r => .refused r

/-- Consume bytes in order, one `RX_BYTE` each: the spec's "`RX: AA BB ...`" (30_encoding.md R109). -/
def receiveAll (bytes : Bytes) (s : State) : Meaning := runAll (bytes.map .rxByte) s

/-! ### The spec's formulas -/

/-- The frame of 30_encoding.md R91, its multi-byte fields as quotients and remainders (R94, R95), its checksum bit-serial
(40_crc.md R134). -/
def specFrame (cmd : Byte) (payload : Bytes) : Bytes :=
  let len := payload.length + 4
  let check := (payload.foldl crcStepSerial 0x0000#16).toNat
  [0xAA#8, 0xBB#8, BitVec.ofNat 8 (len / 256), BitVec.ofNat 8 len, cmd] ++ payload ++
    [BitVec.ofNat 8 (check / 256), BitVec.ofNat 8 check, 0xDD#8]

/-- The encoded Record of 30_encoding.md R98: "present only if type_tag == STRING". -/
def specRecord (cfg : Config) (r : Record) : Bytes :=
  [tagCode cfg r.tag, BitVec.ofNat 8 r.key.length] ++ r.key ++
    (if r.tag = .str then [BitVec.ofNat 8 r.payload.length] else []) ++ r.payload

/-- `ord_bytes_w(u)` by slices `u[7:0], u[15:8], ...` (41_record_store.md R159). -/
def sliceBytes {n : Nat} (o : ByteOrder) (w : Nat) (v : BitVec n) : Bytes :=
  let le := (List.range w).map fun i => v.extractLsb' (8 * i) 8
  match o with
  | .little => le
  | .big => le.reverse

/-- The number that payload bytes hold: byte `i` weighs 256^i, counted from the least significant (R159). -/
def weighBytes (o : ByteOrder) (p : Bytes) : Nat :=
  (match o with
    | .little => p
    | .big => p.reverse).foldr (fun (b : Byte) (n : Nat) => b.toNat + 256 * n) 0

/-- `u` if `u < 2^(n-1)` else `u − 2^n` (41_record_store.md R170, R172, R174). -/
def signedNumber (n u : Nat) : Int := if u < 2 ^ (n - 1) then u else (u : Int) - 2 ^ n

/-- `value_T(p)` as R170 to R178 write it. -/
def specValue (o : ByteOrder) (t : Tag) (p : Bytes) : Value :=
  match t with
  | .i8 => .signed (signedNumber 8 (weighBytes o p))
  | .u8 => .unsigned (weighBytes o p)
  | .i16 => .signed (signedNumber 16 (weighBytes o p))
  | .u16 => .unsigned (weighBytes o p)
  | .i32 => .signed (signedNumber 32 (weighBytes o p))
  | .u32 => .unsigned (weighBytes o p)
  | .f32 => .pattern32 (BitVec.ofNat 32 (weighBytes o p))
  | .f64 => .pattern64 (BitVec.ofNat 64 (weighBytes o p))
  | .str => .text p

/-- "`T`'s zero/default value" (R157): the number 0, the all-zero pattern, the empty sequence. -/
def specDefault (t : Tag) : Value :=
  match t with
  | .i8 | .i16 | .i32 => .signed 0
  | .u8 | .u16 | .u32 => .unsigned 0
  | .f32 => .pattern32 0
  | .f64 => .pattern64 0
  | .str => .text []

/-- `CRC(s)` by the bit-serial update (40_crc.md R134, R136). -/
def specCrc (s : Bytes) : Half := s.foldl crcStepSerial 0x0000#16

/-- The Record that a `SET` stores: its tag, its key and `bytes_T(value)` (R160 to R168). -/
def setRecord (o : ByteOrder) : Instr → Option Record
  | .setI8 k v => some ⟨.i8, k, [v]⟩
  | .setU8 k v => some ⟨.u8, k, [v]⟩
  | .setI16 k v => some ⟨.i16, k, sliceBytes o 2 v⟩
  | .setU16 k v => some ⟨.u16, k, sliceBytes o 2 v⟩
  | .setI32 k v => some ⟨.i32, k, sliceBytes o 4 v⟩
  | .setU32 k v => some ⟨.u32, k, sliceBytes o 4 v⟩
  | .setF32 k v => some ⟨.f32, k, sliceBytes o 4 v⟩
  | .setF64 k v => some ⟨.f64, k, sliceBytes o 8 v⟩
  | .setStr k v => some ⟨.str, k, v⟩
  | _ => none

/-- The value that a `SET` presents, as `GET` of the same type returns it (R179). -/
def setValue : Instr → Option Value
  | .setI8 _ v => some (.signed v.toInt)
  | .setU8 _ v => some (.unsigned v.toNat)
  | .setI16 _ v => some (.signed v.toInt)
  | .setU16 _ v => some (.unsigned v.toNat)
  | .setI32 _ v => some (.signed v.toInt)
  | .setU32 _ v => some (.unsigned v.toNat)
  | .setF32 _ v => some (.pattern32 v)
  | .setF64 _ v => some (.pattern64 v)
  | .setStr _ v => some (.text v)
  | _ => none

/-- The `GET` of a type (41_record_store.md R170 to R178). -/
def getInstr (t : Tag) (k : Bytes) : Instr :=
  match t with
  | .i8 => .getI8 k
  | .u8 => .getU8 k
  | .i16 => .getI16 k
  | .u16 => .getU16 k
  | .i32 => .getI32 k
  | .u32 => .getU32 k
  | .f32 => .getF32 k
  | .f64 => .getF64 k
  | .str => .getStr k

/-- The eight Records of the `GET_INFO` response (44_commands.md R251, R258). -/
def infoRecords (cfg : Config) (d : Descriptor) : List Record :=
  [⟨.u16, cfg.infoKeys.classId, sliceBytes cfg.valueOrder 2 d.classId⟩,
    ⟨.u16, cfg.infoKeys.typeId, sliceBytes cfg.valueOrder 2 d.typeId⟩,
    ⟨.u32, cfg.infoKeys.serial, sliceBytes cfg.valueOrder 4 d.serial⟩,
    ⟨.u8, cfg.infoKeys.verMajor, [d.verMajor]⟩,
    ⟨.u8, cfg.infoKeys.verMinor, [d.verMinor]⟩,
    ⟨.u8, cfg.infoKeys.verRev, [d.verRev]⟩,
    ⟨.str, cfg.infoKeys.name, d.name⟩,
    ⟨.str, cfg.infoKeys.info, d.info⟩]

end Sys2Proof.Machine
end

