-- ==== Sys2Proof/Certificates/Slice0/Obligations.lean ====
section
/-! DEFINITION. Statements for the provers, each a `def Obligations.<Name> : Prop`. In every one that gives an instruction's
next state as an equation, the update shown is all that changes: that equation is the instruction's frame. The field `out`
is the model's own (log 10): what it holds after a host operation is the result the rule returns, what it holds after a
receive step is the error the rule raises. -/

open Sys2Proof Sys2Proof.Machine

/-! ### The Checksum Engine -/

/-- 40_crc.md section 2 (R131, R132) and the vectors of 95_test_vectors.md section 2.1: six table entries, and checksums
V10, V12, V14, V15, V16a and V19c. -/
def Obligations.CrcTestVectors : Prop :=
  crcTable.length = 256 ∧
    crcLookup 0x00#8 = 0x0000#16 ∧ crcLookup 0x01#8 = 0x1021#16 ∧ crcLookup 0x02#8 = 0x2042#16 ∧
    crcLookup 0x41#8 = 0x58E5#16 ∧ crcLookup 0x80#8 = 0x9188#16 ∧ crcLookup 0xFF#8 = 0x1EF0#16 ∧
    crc [] = 0x0000#16 ∧ crc [0x01#8] = 0x1021#16 ∧ crc [0xFF#8] = 0x1EF0#16 ∧
    crc [0x31#8, 0x32#8, 0x33#8, 0x34#8, 0x35#8, 0x36#8, 0x37#8, 0x38#8, 0x39#8] = 0x31C3#16 ∧
    crc [0x01#8, 0x01#8, 0x61#8, 0x07#8] = 0x0978#16 ∧
    crc [0x31#8, 0x32#8, 0x33#8, 0x34#8, 0x35#8, 0x36#8, 0x37#8, 0x38#8, 0x39#8, 0x31#8, 0xC3#8] = 0x0000#16

/-- 40_crc.md section 3 (R135, which the spec derives): the table-driven update and the bit-serial one are the same
function. -/
def Obligations.CrcTableStepIsBitSerialStep : Prop :=
  ∀ (c : Half) (b : Byte), crcStep c b = crcStepSerial c b

/-- 40_crc.md R136: `CRC_CALC` answers the (bit-serial) checksum of the half-open range, or `RangeError`, and changes
nothing else. -/
def Obligations.CrcCalcAnswersChecksumOfRange : Prop :=
  ∀ (bytes : Bytes) (start stop : Nat) (s : State),
    (start ≤ stop ∧ stop ≤ bytes.length →
      exec (.crcCalc bytes start stop) s =
        .next { s with out := .checksum (specCrc ((bytes.drop start).take (stop - start))) }) ∧
    (¬ (start ≤ stop ∧ stop ≤ bytes.length) →
      exec (.crcCalc bytes start stop) s = .next { s with out := .status .rangeError })

/-- 40_crc.md section 4 (R137, which the spec derives): the empty range, leading zeros, a single byte, and bytes
wherever they lie. -/
def Obligations.CrcCornerCases : Prop :=
  (∀ (bytes : Bytes) (k : Nat) (s : State), k ≤ bytes.length →
      exec (.crcCalc bytes k k) s = .next { s with out := .checksum 0x0000#16 }) ∧
    (∀ (n : Nat) (m : Bytes), crc (List.replicate n 0x00#8 ++ m) = crc m) ∧
    (∀ n : Nat, crc (List.replicate n 0x00#8) = 0x0000#16) ∧
    (∀ b : Byte, crc [b] = crcTableEntry b) ∧
    ∀ (pre m post : Bytes) (s : State),
      exec (.crcCalc (pre ++ m ++ post) pre.length (pre.length + m.length)) s = .next { s with out := .checksum (crc m) }

/-- 40_crc.md section 4, laws (a) and (b) of R139, which the spec derives: linearity over equal lengths, and the zero
residue. -/
def Obligations.CrcIsLinearWithZeroResidue : Prop :=
  (∀ a b : Bytes, a.length = b.length → crc (List.zipWith (· ^^^ ·) a b) = crc a ^^^ crc b) ∧
    ∀ m : Bytes, crc (m ++ [hiByte (crc m), loByte (crc m)]) = 0x0000#16

/-- 40_crc.md section 4, law (c) of R139, which the spec derives: "altering any single byte within the payload range
changes the result". -/
def Obligations.CrcDetectsOneChangedByte : Prop :=
  ∀ (pre post : Bytes) (a b : Byte), a ≠ b → crc (pre ++ a :: post) ≠ crc (pre ++ b :: post)

/-- 40_crc.md section 4, law (c) of R139, which the spec derives: an odd number of changed bits changes the result. -/
def Obligations.CrcDetectsOddBitErrors : Prop :=
  ∀ a b : Bytes, a.length = b.length →
    (List.zipWith (fun u v : Byte => (List.range 8).countP fun k => (u ^^^ v).getLsbD k) a b).sum % 2 = 1 → crc a ≠ crc b

/-- 40_crc.md section 4 (R138, which the spec derives): the checksum is the remainder of `M(x) · x^16` by `x^16 + x^12 +
x^5 + 1` over GF(2), where the bits of a byte or of the result, most significant first, are the coefficients, highest
power first. -/
def Obligations.CrcIsPolynomialRemainder : Prop :=
  let poly : List Bool → Polynomial (ZMod 2) :=
    fun bits => bits.foldl (fun p b => p * Polynomial.X + if b then 1 else 0) 0
  ∀ m : Bytes,
    (poly (m.flatMap fun b => [7, 6, 5, 4, 3, 2, 1, 0].map b.getLsbD) * Polynomial.X ^ 16) %ₘ
        (Polynomial.X ^ 16 + Polynomial.X ^ 12 + Polynomial.X ^ 5 + 1) =
      poly ([15, 14, 13, 12, 11, 10, 9, 8, 7, 6, 5, 4, 3, 2, 1, 0].map (crc m).getLsbD)

/-! ### The Typed Record Store -/

/-- 41_record_store.md section 2 (R153) with R160 to R168: each of the nine `SET`s of a key that is absent appends its
Record, tag and bytes as the type's rule says, when the operands are within 255 bytes and the store has room. -/
def Obligations.SetAppendsNewField : Prop :=
  ∀ (i : Instr) (r : Record) (s : State), setRecord s.cfg.valueOrder i = some r →
    r.key.length ≤ 255 → (r.tag = .str → r.payload.length ≤ 255) →
    (∀ q ∈ s.x, q.key ≠ r.key) → s.cfg.storeMaxRecords ≠ some s.x.length →
    exec i s = .next { s with x := s.x ++ [r], out := .status .ok }

/-- 41_record_store.md R154, the position law of the nine `SET`s: an existing key of the same type is overwritten in
place, one of another type is removed and appended at the end; neither asks for room. The Record meant is the first with
the key (R180). -/
def Obligations.SetPositionLaw : Prop :=
  ∀ (i : Instr) (r q : Record) (pre post : List Record) (s : State), setRecord s.cfg.valueOrder i = some r →
    r.key.length ≤ 255 → (r.tag = .str → r.payload.length ≤ 255) →
    s.x = pre ++ q :: post → (∀ p ∈ pre, p.key ≠ r.key) → q.key = r.key →
    (q.tag = r.tag → exec i s = .next { s with x := pre ++ r :: post, out := .status .ok }) ∧
      (q.tag ≠ r.tag → exec i s = .next { s with x := pre ++ post ++ [r], out := .status .ok })

/-- 41_record_store.md R155 and section 2 (R156): an oversize key, then an oversize string, then a full store refuse a
`SET`, and nothing is stored; sizes up to 255 are not refused for their size. -/
def Obligations.SetRefusesOversizeAndFull : Prop :=
  ∀ (i : Instr) (r : Record) (s : State), setRecord s.cfg.valueOrder i = some r →
    (255 < r.key.length → exec i s = .next { s with out := .status .keyTooLong }) ∧
      (r.key.length ≤ 255 → r.tag = .str → 255 < r.payload.length →
        exec i s = .next { s with out := .status .valueTooLong }) ∧
      (r.key.length ≤ 255 → (r.tag = .str → r.payload.length ≤ 255) →
        (∀ q ∈ s.x, q.key ≠ r.key) → s.cfg.storeMaxRecords = some s.x.length →
        exec i s = .next { s with out := .status .storeFull }) ∧
      (r.key.length ≤ 255 → (r.tag = .str → r.payload.length ≤ 255) →
        ∃ t, exec i s = .next t ∧ t.out ≠ .status .keyTooLong ∧ t.out ≠ .status .valueTooLong)

/-- 41_record_store.md R157 with the values of R170 to R178: each of the nine `GET`s, the key absent or present (the
first Record with it), the width right or wrong; `read_flag` is set exactly when the key is present, and nothing else
changes. -/
def Obligations.GetReadsTheFirstMatch : Prop :=
  ∀ (t : Tag) (k : Bytes) (s : State),
    ((∀ q ∈ s.x, q.key ≠ k) →
      exec (getInstr t k) s = .next { s with out := .reading .keyAbsent (specDefault t) }) ∧
    ∀ (pre post : List Record) (r : Record), s.x = pre ++ r :: post → (∀ q ∈ pre, q.key ≠ k) → r.key = k →
      (t = .str ∨ fixedWidth t = some r.payload.length →
        exec (getInstr t k) s =
          .next { s with readFlag := true, out := .reading .ok (specValue s.cfg.valueOrder t r.payload) }) ∧
      (t ≠ .str → fixedWidth t ≠ some r.payload.length →
        exec (getInstr t k) s = .next { s with readFlag := true, out := .reading .typeSizeMismatch (specDefault t) })

/-- 41_record_store.md R152: `FIND` answers the lowest matching index or none, none for a key over 255 bytes (in a store
that meets INV-WIDTH), and writes no flag. -/
def Obligations.FindAnswersLowestIndex : Prop :=
  ∀ (k : Bytes) (s : State),
    ((∀ q ∈ s.x, q.key ≠ k) → exec (.find k) s = .next { s with out := .index none }) ∧
      (∀ (pre post : List Record) (r : Record), s.x = pre ++ r :: post → (∀ q ∈ pre, q.key ≠ k) → r.key = k →
        exec (.find k) s = .next { s with out := .index (some pre.length) }) ∧
      (StoreFits s.x → 255 < k.length → exec (.find k) s = .next { s with out := .index none })

/-- 41_record_store.md R151: `CLEAR` empties the store and writes no flag. -/
def Obligations.ClearEmptiesTheStore : Prop :=
  ∀ s : State, exec .clear s = .next { s with x := [], out := .silent }

/-- 41_record_store.md section 5 (R179, which the spec derives): after `SET.<T> k, v`, `GET.<T> k` answers `(OK, v)`
with `read_flag` set, in an unbounded store whose keys are unique (INV-UNIQUE, which a `DECODE` may break: log 23); and
the value read from the bytes of `v` is `v`, under either byte order. -/
def Obligations.SetThenGetAnswersTheValue : Prop :=
  (∀ (i : Instr) (r : Record) (v : Value) (s : State), setRecord s.cfg.valueOrder i = some r → setValue i = some v →
      r.key.length ≤ 255 → (r.tag = .str → r.payload.length ≤ 255) → s.cfg.storeMaxRecords = none →
      KeysUnique s.x →
      ∃ t, runAll [i, getInstr r.tag r.key] s = .next t ∧ t.out = .reading .ok v ∧ t.readFlag = true) ∧
    ∀ (o : ByteOrder) (i : Instr) (r : Record) (v : Value), setRecord o i = some r → setValue i = some v →
      specValue o r.tag r.payload = v

/-- 41_record_store.md section 5 (R180, which the spec derives): the nine `SET`s keep INV-WIDTH and INV-UNIQUE; and
section 2 (R153, R156): they keep the store's bound. -/
def Obligations.SetKeepsStoreInvariants : Prop :=
  ∀ (i : Instr) (r : Record) (s t : State), setRecord s.cfg.valueOrder i = some r → exec i s = .next t →
    (StoreFits s.x → StoreFits t.x) ∧ (KeysUnique s.x → KeysUnique t.x) ∧
      (StoreInBounds s.cfg s.x → StoreInBounds t.cfg t.x)

/-! ### The codec -/

/-- 42_codec.md R200: `ENCODE` answers the Records' encodings in store order, of the length R200 gives, and writes
nothing. -/
def Obligations.EncodeConcatenatesRecords : Prop :=
  ∀ s : State, exec .encode s = .next { s with out := .bytes (s.x.flatMap (specRecord s.cfg)) } ∧
    (s.x.flatMap (specRecord s.cfg)).length =
      (s.x.map fun r => 2 + r.key.length + r.payload.length + if r.tag = .str then 1 else 0).sum

/-- 42_codec.md section 4 (R208, which the spec derives), the round trip: `DECODE` of what `ENCODE` answered, on any
block with the same parameters, gives the store back, Record for Record. INV-UNIQUE is not needed. -/
def Obligations.DecodeOfEncodeRestoresTheStore : Prop :=
  ∀ (s t : State) (b : Bytes), t.cfg = s.cfg → s.cfg.tagCode.toList.Nodup → StoreFits s.x → StoreInBounds s.cfg s.x →
    exec .encode s = .next { s with out := .bytes b } →
    exec (.decode b) t = .next { t with x := s.x, out := .status .ok }

/-- 42_codec.md section 4 (R209, which the spec derives), the converse: whatever byte sequence `DECODE` accepts,
`ENCODE` of the resulting store answers. -/
def Obligations.EncodeOfDecodeRestoresTheBytes : Prop :=
  ∀ (s t : State) (b : Bytes), exec (.decode b) s = .next t → t.out = .status .ok →
    exec .encode t = .next { t with out := .bytes b }

/-- 42_codec.md R206 with section 3 (R201): `DECODE` completes on every byte sequence, writing the store and its status
only; a failure leaves the store empty. -/
def Obligations.FailedDecodeLeavesTheStoreEmpty : Prop :=
  ∀ (b : Bytes) (s : State), ∃ (y : List Record) (st : Status),
    exec (.decode b) s = .next { s with x := y, out := .status st } ∧
      (st = .ok ∨ (st = .unknownTag ∨ st = .decodeOutOfRange ∨ st = .storeFull) ∧ y = [])

/-- 42_codec.md R203: a byte in the tag position that is the code of no tag fails with `UnknownTag`, whatever follows
it. -/
def Obligations.DecodeRejectsUnknownTag : Prop :=
  ∀ (ys : List Record) (b : Byte) (rest : Bytes) (s : State), s.cfg.tagCode.toList.Nodup → StoreFits ys →
    StoreInBounds s.cfg ys → (∀ t, tagCode s.cfg t ≠ b) →
    exec (.decode (ys.flatMap (specRecord s.cfg) ++ b :: rest)) s = .next { s with x := [], out := .status .unknownTag }

/-- 42_codec.md R202: a Record cut short anywhere after its tag byte fails with `DecodeOutOfRange`. -/
def Obligations.DecodeRejectsTruncatedRecord : Prop :=
  ∀ (ys : List Record) (r : Record) (n : Nat) (s : State), s.cfg.tagCode.toList.Nodup → StoreFits ys →
    recordFits r = true → StoreInBounds s.cfg ys → 0 < n → n < (specRecord s.cfg r).length →
    exec (.decode (ys.flatMap (specRecord s.cfg) ++ (specRecord s.cfg r).take n)) s =
      .next { s with x := [], out := .status .decodeOutOfRange }

/-- 42_codec.md R204: at the first Record beyond `STORE_MAX_RECORDS` `DECODE` fails with `StoreFull`, whatever follows
that Record; an unbounded store never does. -/
def Obligations.DecodeRefusesExcessRecords : Prop :=
  (∀ (ys : List Record) (rest : Bytes) (m : Nat) (s : State), s.cfg.tagCode.toList.Nodup → StoreFits ys →
      s.cfg.storeMaxRecords = some m → m < ys.length →
      exec (.decode (ys.flatMap (specRecord s.cfg) ++ rest)) s = .next { s with x := [], out := .status .storeFull }) ∧
    ∀ (b : Bytes) (s t : State), s.cfg.storeMaxRecords = none → exec (.decode b) s = .next t →
      t.out ≠ .status .storeFull

/-- The nine Record forms (42_codec.md R191 to R199) inside `DECODE`'s loop (R201, R204 to R206): the Record is appended
without a lookup, or, the store full, the store is emptied. That a Record form is one round of the loop, with a status
of its own, is the model's reading (log 6); that a Record whose payload has another width than its tag's, which no
encoding spells, is treated alike is the model's choice (log 18). -/
def Obligations.RecordFormsAppend : Prop :=
  ∀ (r : Record) (s : State),
    (s.cfg.storeMaxRecords ≠ some s.x.length →
      exec (recordInstr r) s = .next { s with x := s.x ++ [r], out := .status .ok }) ∧
    (s.cfg.storeMaxRecords = some s.x.length →
      exec (recordInstr r) s = .next { s with x := [], out := .status .storeFull })

/-- `DECODE` of a sequence of Records is the run of their Record forms from an empty store (42_codec.md R201; log 6). -/
def Obligations.DecodeRunsItsRecordForms : Prop :=
  ∀ (ys : List Record) (s : State), s.cfg.tagCode.toList.Nodup → StoreFits ys → StoreInBounds s.cfg ys →
    exec (.decode (ys.flatMap (specRecord s.cfg))) s = runAll (.decode [] :: ys.map recordInstr) s

/-! ### The receive framer -/

/-- 43_rx_framer.md R222, R223: the two markers; a byte that is not the marker awaited is discarded and nothing else
changes. -/
def Obligations.RxByteSeeksTheMarkers : Prop :=
  ∀ (b : Byte) (s : State),
    (s.rxState = .idle → b = 0xAA#8 →
      exec (.rxByte b) s = .next { s with rxState := .sawHeader, out := .raised .ok }) ∧
    (s.rxState = .idle → b ≠ 0xAA#8 →
      exec (.rxByte b) s = .next { s with rxState := .idle, out := .raised .framingMismatch }) ∧
    (s.rxState = .sawHeader → b = 0xBB#8 →
      exec (.rxByte b) s = .next { s with rxState := .sawPktid, out := .raised .ok }) ∧
    (s.rxState = .sawHeader → b ≠ 0xBB#8 →
      exec (.rxByte b) s = .next { s with rxState := .idle, out := .raised .framingMismatch })

/-- 43_rx_framer.md R224, R225: the declared length, big-endian, refused below 4 and above the receive buffer. -/
def Obligations.RxByteReadsTheDeclaredLength : Prop :=
  ∀ (b : Byte) (s : State),
    (s.rxState = .sawPktid →
      exec (.rxByte b) s =
        .next { s with rxLen := BitVec.ofNat 16 (b.toNat * 256), rxState := .waitLenLo, out := .raised .ok }) ∧
    ∀ len : Nat, s.rxState = .waitLenLo → len = s.rxLen.toNat / 256 * 256 + b.toNat →
      (len < 4 ∨ s.cfg.rxMaxPayload < len - 4 →
        exec (.rxByte b) s =
          .next { s with
            rxLen := BitVec.ofNat 16 len, err := s.err ||| 0b0100#4, rxLast := .lengthError, rxState := .idle,
            out := .raised .lengthError }) ∧
      (4 ≤ len → len - 4 ≤ s.cfg.rxMaxPayload →
        exec (.rxByte b) s =
          .next { s with rxLen := BitVec.ofNat 16 len, rxState := .waitCmd, out := .raised .ok })

/-- 43_rx_framer.md R226, R227: the command byte, then exactly `L − 4` payload bytes. -/
def Obligations.RxByteReadsCommandAndPayload : Prop :=
  ∀ (b : Byte) (s : State), 4 ≤ s.rxLen.toNat →
    (s.rxState = .waitCmd →
      exec (.rxByte b) s =
        .next { s with
          curCmd := b, rxBuf := [], rxState := if s.rxLen.toNat = 4 then .waitChkHi else .waitPayload,
          out := .raised .ok }) ∧
    (s.rxState = .waitPayload →
      exec (.rxByte b) s =
        .next { s with
          rxBuf := s.rxBuf ++ [b],
          rxState := if s.rxBuf.length + 1 = s.rxLen.toNat - 4 then .waitChkHi else .waitPayload,
          out := .raised .ok })

/-- 43_rx_framer.md R228, R229: the checksum field, big-endian. -/
def Obligations.RxByteReadsTheChecksum : Prop :=
  ∀ (b : Byte) (s : State),
    (s.rxState = .waitChkHi →
      exec (.rxByte b) s =
        .next { s with rxChk := BitVec.ofNat 16 (b.toNat * 256), rxState := .waitChkLo, out := .raised .ok }) ∧
    (s.rxState = .waitChkLo →
      exec (.rxByte b) s =
        .next { s with
          rxChk := BitVec.ofNat 16 (s.rxChk.toNat / 256 * 256 + b.toNat), rxState := .waitTerm, out := .raised .ok })

/-- 43_rx_framer.md R230, R231, R233 and the dispatch of section 3: at the terminator, a checksum mismatch is judged
first, then the terminator; a good frame runs its wire command (whose statements give R232's writes). -/
def Obligations.RxByteReachesTheVerdict : Prop :=
  ∀ (b : Byte) (s : State), s.rxState = .waitTerm →
    (specCrc s.rxBuf ≠ s.rxChk →
      exec (.rxByte b) s =
        .next { s with
          err := s.err ||| 0b0001#4, dataAvailable := false, rxLast := .checksumError, rxState := .idle,
          out := .raised .checksumMismatch }) ∧
    (specCrc s.rxBuf = s.rxChk → b ≠ 0xDD#8 →
      exec (.rxByte b) s =
        .next { s with
          err := s.err ||| 0b0010#4, rxLast := .terminatorError, rxState := .idle,
          out := .raised .terminatorMismatch }) ∧
    (specCrc s.rxBuf = s.rxChk → b = 0xDD#8 → exec (.rxByte b) s = exec (wireInstr s.curCmd s.rxBuf) s)

/-- 43_rx_framer.md section 5 (R237, which the spec derives): before the verdict the framer writes only its own
registers (and `ERR.LEN`, `rx_last` where the length is refused). -/
def Obligations.FramerIsQuietBeforeTheVerdict : Prop :=
  ∀ (b : Byte) (s : State), s.rxState ≠ .waitTerm → ∃ t, exec (.rxByte b) s = .next t ∧
    t = { s with
      rxState := t.rxState, rxLen := t.rxLen, curCmd := t.curCmd, rxBuf := t.rxBuf, rxChk := t.rxChk, err := t.err,
      rxLast := t.rxLast, out := t.out } ∧
    (s.rxState ≠ .waitLenLo → t.err = s.err ∧ t.rxLast = s.rxLast) ∧
    (t.err = s.err ∨ t.err = s.err ||| 0b0100#4) ∧ (t.rxLast = s.rxLast ∨ t.rxLast = .lengthError)

/-- The byte-serial framer refines the frame format (30_encoding.md section 2, 43_rx_framer.md sections 2 and 3): from
`IDLE`, the bytes of a frame, one `RX_BYTE` each, do exactly what its wire command does with the frame's fields in the
framer's registers. -/
def Obligations.FrameBytesRunTheirCommand : Prop :=
  ∀ (cmd : Byte) (payload : Bytes) (s : State), s.rxState = .idle → payload.length ≤ 65531 →
    payload.length ≤ s.cfg.rxMaxPayload →
    receiveAll (specFrame cmd payload) s =
      exec (wireInstr cmd payload)
        { s with
          rxLen := BitVec.ofNat 16 (payload.length + 4), curCmd := cmd, rxBuf := payload, rxChk := specCrc payload }

/-- 43_rx_framer.md section 5 (R235): once `SAW_PKTID` is reached with an acceptable length `L` to come, the framer
consumes its two bytes and `L` more, whatever they are, before it is in `IDLE` again, and not one fewer. -/
def Obligations.FramerCountsTheDeclaredLength : Prop :=
  ∀ (hi lo : Byte) (body : Bytes) (s : State), s.rxState = .sawPktid → 4 ≤ hi.toNat * 256 + lo.toNat →
    hi.toNat * 256 + lo.toNat - 4 ≤ s.cfg.rxMaxPayload → body.length = hi.toNat * 256 + lo.toNat →
    (∃ t, receiveAll (hi :: lo :: body) s = .next t ∧ t.rxState = .idle) ∧
      ∀ n < body.length, ∃ t, receiveAll (hi :: lo :: body.take n) s = .next t ∧ t.rxState ≠ .idle

/-- 45_tx_and_host.md section 1 (R274) and the first half of 43_rx_framer.md section 5's R238, both derived by the spec:
the frame that a `SEND` wrote, received by a block in `IDLE` with the same `TAG_CODE` and enough capacity, is accepted
with its command; a `SEND_DATA` frame of a non-empty store reproduces that store and sets the latch; and `DECODE` of its
payload gives the sender's store back. -/
def Obligations.SentFrameReproducesTheStore : Prop :=
  ∀ (cmd : Byte) (s t r : State), s.cfg.tagCode.toList.Nodup → r.cfg.tagCode = s.cfg.tagCode → StoreFits s.x →
    StoreInBounds r.cfg s.x → r.rxState = .idle → (s.x.flatMap (specRecord s.cfg)).length ≤ r.cfg.rxMaxPayload →
    exec (.send cmd) s = .next t → t.out = .status .ok →
    ∃ (f : Bytes) (u : State), t.txLog = s.txLog ++ [f] ∧ receiveAll f r = .next u ∧ u.rxState = .idle ∧
      u.rxLast = .packetComplete ∧ u.lastCmd = cmd ∧
      (cmd = 0x64#8 → s.x ≠ [] → u.x = s.x ∧ u.dataAvailable = true ∧ u.readFlag = false) ∧
      exec (.decode ((f.drop 5).take (f.length - 8))) r = .next { r with x := s.x, out := .status .ok }

/-! ### The wire commands -/

/-- 44_commands.md R251, with sections 2's R258 and R259: `GET_INFO` in a good frame overwrites the store with the eight
descriptor Records and sends them in a `SEND_INFO` frame, or, in an active window, sends nothing; the latch, `read_flag`
and `ERR` are not written. -/
def Obligations.GetInfoTransmitsTheDescriptor : Prop :=
  ∀ (p : Bytes) (s : State), s.cfg.Wf → s.desc.Wf →
    ((readTime s).suppress = false ∨ 4000 ≤ ((readTime s).now - s.tStop).toNat →
      exec (.getInfo p) s =
        .next { readTime s with
          x := infoRecords s.cfg s.desc, suppress := false,
          txLog := s.txLog ++ [specFrame 0x69#8 ((infoRecords s.cfg s.desc).flatMap (specRecord s.cfg))],
          rxLast := .packetComplete, lastCmd := 0x50#8, rxState := .idle, out := .raised .ok }) ∧
    ((readTime s).suppress = true → ((readTime s).now - s.tStop).toNat < 4000 →
      exec (.getInfo p) s =
        .next { readTime s with
          x := infoRecords s.cfg s.desc,
          rxLast := .packetComplete, lastCmd := 0x50#8, rxState := .idle, out := .raised .ok })

/-- 44_commands.md section 3 (R252) and 45_tx_and_host.md section 1 (R270, R272, R273): `STOP_DATA` in a good frame sets
`suppress` and records the time read, whatever the payload and whether or not a window is running. `suppress` goes from
1 to 0 only at a reset or in a step whose `SEND` (a `GET_INFO`'s included) reads a time at least 4000 time-units after
`t_stop`, whether or not that `SEND` then transmits: so for each instruction but `POLL`, where the read is the one that
the instruction makes; for `POLL`, at one of the pending bytes it consumes; for a step, at a reset or in the instruction
it runs. The turns and the draw of the time are the model's (log 1, 9, 16, 22). -/
def Obligations.StopDataStartsTheWindow : Prop :=
  (∀ (p : Bytes) (s : State),
    exec (.stopData p) s =
      .next { readTime s with
        suppress := true, tStop := (readTime s).now,
        rxLast := .packetComplete, lastCmd := 0x72#8, rxState := .idle, out := .raised .ok }) ∧
    (∀ (i : Instr) (s t : State), exec i s = .next t → i ≠ .poll → s.suppress = true → t.suppress = false →
      t.tStop = s.tStop ∧ t.now = (readTime s).now ∧ 4000 ≤ (t.now - s.tStop).toNat ∧
        ((∃ c, i = .send c) ∨ (∃ p, i = .getInfo p) ∨
          ∃ b, i = .rxByte b ∧ s.rxState = .waitTerm ∧ s.curCmd = 0x50#8)) ∧
    (∀ s t : State, exec .poll s = .next t → s.suppress = true → t.suppress = false →
      ∃ (pre post : Bytes) (b : Byte) (u v : State), s.rxFifo = pre ++ b :: post ∧ receiveAll pre s = .next u ∧
        exec (.rxByte b) u = .next v ∧ u.suppress = true ∧ v.suppress = false) ∧
    ∀ s t : State, step s = .next t → s.suppress = true → t.suppress = false →
      (∃ ts, s.turns = .reset :: ts) ∨
        ∃ (i : Instr) (u : State), u = { s with turns := u.turns, hostPort := u.hostPort, rxFifo := u.rxFifo } ∧
          exec i u = .next t

/-- 44_commands.md R253, R254, R255: `SEND_DATA` in a good frame, its payload decodable, not decodable, or empty; what
`DECODE` of the payload does is told by `DECODE`'s own meaning, and, first, by the Records that the payload encodes. -/
def Obligations.SendDataHasThreeCases : Prop :=
  ∀ (p : Bytes) (s : State),
    (∀ ys : List Record, ys ≠ [] → s.cfg.tagCode.toList.Nodup → StoreFits ys → StoreInBounds s.cfg ys →
      exec (.sendData (ys.flatMap (specRecord s.cfg))) s =
        .next { s with
          x := ys, dataAvailable := true, readFlag := false,
          rxLast := .packetComplete, lastCmd := 0x64#8, rxState := .idle, out := .raised .ok }) ∧
    (∀ t : State, p ≠ [] → exec (.decode p) s = .next t → t.out = .status .ok →
      exec (.sendData p) s =
        .next { s with
          x := t.x, dataAvailable := true, readFlag := false,
          rxLast := .packetComplete, lastCmd := 0x64#8, rxState := .idle, out := .raised .ok }) ∧
    (∀ (t : State) (e : Status), p ≠ [] → exec (.decode p) s = .next t → t.out = .status e → e ≠ .ok →
      exec (.sendData p) s =
        .next { s with
          x := [], err := s.err ||| 0b1000#4, dataAvailable := false,
          rxLast := .decodeError, lastCmd := 0x64#8, rxState := .idle, out := .raised e }) ∧
    (p = [] →
      exec (.sendData p) s =
        .next { s with rxLast := .packetComplete, lastCmd := 0x64#8, rxState := .idle, out := .raised .ok })

/-- 44_commands.md R256, R257: `SEND_INFO` and `OTHER`, any command byte except 0x50, 0x64, 0x69 and 0x72, in a good
frame write the verdict's registers and nothing else. -/
def Obligations.OtherCommandsAreIgnored : Prop :=
  ∀ (p : Bytes) (s : State),
    exec (.sendInfo p) s =
        .next { s with rxLast := .packetComplete, lastCmd := 0x69#8, rxState := .idle, out := .raised .ok } ∧
      ∀ c : Byte, c ≠ 0x50#8 → c ≠ 0x64#8 → c ≠ 0x69#8 → c ≠ 0x72#8 →
        exec (.other c p) s =
          .next { s with rxLast := .packetComplete, lastCmd := c, rxState := .idle, out := .raised .ok }

/-! ### Transmit, poll, latch, status, descriptor -/

/-- 45_tx_and_host.md R270, R272: `SEND` is dropped in an active window, refuses a store too large for a frame, and
otherwise writes one frame; the window found over is lifted first. `readTime` is the time input's draw (log 9). -/
def Obligations.SendFollowsTheTransmitPath : Prop :=
  ∀ (cmd : Byte) (s : State),
    ((readTime s).suppress = true → ((readTime s).now - s.tStop).toNat < 4000 →
      exec (.send cmd) s = .next { readTime s with out := .status .txSuppressed }) ∧
    ((readTime s).suppress = false ∨ 4000 ≤ ((readTime s).now - s.tStop).toNat →
      (65531 < (s.x.flatMap (specRecord s.cfg)).length →
        exec (.send cmd) s = .next { readTime s with suppress := false, out := .status .txTooLong }) ∧
      ((s.x.flatMap (specRecord s.cfg)).length ≤ 65531 →
        exec (.send cmd) s =
          .next { readTime s with
            suppress := false, txLog := s.txLog ++ [specFrame cmd (s.x.flatMap (specRecord s.cfg))],
            out := .status .ok }))

/-- 45_tx_and_host.md section 1 (R273): a `SEND` that reads the time `d` time-units after a `STOP_DATA` is dropped when
`d` is below 4000 and transmits from 4000 on, the time having wrapped or not. -/
def Obligations.SuppressionLastsTheWindow : Prop :=
  ∀ (p : Bytes) (cmd : Byte) (a d : Time) (ds : List Time) (s : State), s.timeAdvance = a :: d :: ds →
    ∃ u, runAll [.stopData p, .send cmd] s = .next u ∧ u.tStop = s.now + a ∧ u.now = s.now + a + d ∧
      (d.toNat < 4000 → u.out = .status .txSuppressed ∧ u.txLog = s.txLog ∧ u.suppress = true) ∧
      (4000 ≤ d.toNat → u.suppress = false ∧
        ((s.x.flatMap (specRecord s.cfg)).length ≤ 65531 →
          u.out = .status .ok ∧ u.txLog = s.txLog ++ [specFrame cmd (s.x.flatMap (specRecord s.cfg))]))

/-- 45_tx_and_host.md R277: `RX_EMPTY` clears the latch when a read has occurred and changes nothing else, in every
`rx_state`. -/
def Obligations.RxEmptyClearsTheReadLatch : Prop :=
  ∀ s : State,
    (s.readFlag = true → exec .rxEmpty s = .next { s with dataAvailable := false, out := .raised .ok }) ∧
      (s.readFlag = false → exec .rxEmpty s = .next { s with out := .raised .ok })

/-- 45_tx_and_host.md section 2 (R276): `POLL` with nothing pending is `RX_EMPTY`, and with bytes pending it is as many
turns of the transport, which consume them all; it returns nothing. That one `POLL` is one step, and the turns, are the
model's (log 1, 16). -/
def Obligations.PollConsumesEveryPendingByte : Prop :=
  ∀ s : State,
    (s.rxFifo = [] →
      exec .poll s =
        .next { s with dataAvailable := if s.readFlag then false else s.dataAvailable, out := .silent }) ∧
    (s.cfg.Wf → s.rxFifo ≠ [] → ∃ u : State,
      Sys2Proof.core.run s.rxFifo.length
          { s with turns := List.replicate s.rxFifo.length .receive ++ s.turns } = .next u ∧
        u.rxFifo = [] ∧ u.turns = s.turns ∧ exec .poll s = .next { u with out := .silent })

/-- 45_tx_and_host.md section 3 (R278) with 43_rx_framer.md section 5 (R238), derived by the spec: an unread latch stays
set through any number of empty polls; after a `GET` that finds its key it is still set, and the next empty poll clears
it. -/
def Obligations.LatchClearsOnlyWhenReadAndIdle : Prop :=
  ∀ s : State, s.dataAvailable = true → s.readFlag = false →
    (∀ n : Nat, ∃ u, runAll (List.replicate n .rxEmpty ++ [.available]) s = .next u ∧ u.out = .bit true) ∧
    ∀ (t : Tag) (k : Bytes), (∃ r ∈ s.x, r.key = k) →
      (∃ u, runAll [getInstr t k, .available] s = .next u ∧ u.out = .bit true) ∧
        ∃ u, runAll [getInstr t k, .rxEmpty, .available] s = .next u ∧ u.out = .bit false

/-- 45_tx_and_host.md section 3 (R283, which the spec derives), over every instruction: only `SEND_DATA`, the receive
steps and `POLL` write the latch; only they (less the empty poll) and `GET` write `read_flag`. -/
def Obligations.LatchAndReadFlagWriters : Prop :=
  ∀ (i : Instr) (s t : State), exec i s = .next t → (∀ p, i ≠ .sendData p) → (∀ b, i ≠ .rxByte b) → i ≠ .poll →
    (i ≠ .rxEmpty → t.dataAvailable = s.dataAvailable) ∧ ((∀ u k, i ≠ getInstr u k) → t.readFlag = s.readFlag)

/-- 10_state.md section 4 (R33), over every step: an `ERR` bit goes from 1 to 0 only at a reset or by the host's
`ERR_CLEAR`. -/
def Obligations.ErrorBitsAreSticky : Prop :=
  ∀ s t : State, step s = .next t → s.err &&& t.err ≠ s.err →
    (∃ ts, s.turns = .reset :: ts) ∨
      ∃ ts rest, s.turns = .host :: ts ∧ decode s.cfg .hostOp s.hostPort = .ok (.errClear, rest)

/-- 10_state.md sections 3 and 5 (R27, R37): no host operation but `POLL` writes `rx_state`, the framer's registers,
`rx_last` or `last_cmd`, or takes a pending byte. -/
def Obligations.HostOperationsLeaveTheFramerAlone : Prop :=
  ∀ (i : Instr) (s t : State), spaceOf i = .hostOp → i ≠ .poll → exec i s = .next t →
    t.rxState = s.rxState ∧ t.rxLen = s.rxLen ∧ t.curCmd = s.curCmd ∧ t.rxBuf = s.rxBuf ∧ t.rxChk = s.rxChk ∧
      t.rxLast = s.rxLast ∧ t.lastCmd = s.lastCmd ∧ t.rxFifo = s.rxFifo

/-- 45_tx_and_host.md R278, R279, R280: `AVAILABLE` answers the latch, `STATUS_READ` the word of R279 (its fields
weighed by their places, `rx_last` by 10_state.md R37's codes), `ERR_CLEAR` clears `ERR`; nothing else is written. -/
def Obligations.StatusOperations : Prop :=
  ∀ s : State,
    exec .available s = .next { s with out := .bit s.dataAvailable } ∧
      (∃ w : BitVec 17, exec .statusRead s = .next { s with out := .word w } ∧
        w.toNat = s.suppress.toNat * 65536 + s.dataAvailable.toNat * 32768 +
          (match s.rxLast with
            | .none => 0
            | .packetComplete => 1
            | .checksumError => 2
            | .terminatorError => 3
            | .lengthError => 4
            | .decodeError => 5) * 4096 + s.err.toNat * 256 + s.lastCmd.toNat) ∧
      exec .errClear s = .next { s with err := 0b0000#4, out := .silent }

/-- 45_tx_and_host.md R281: `DESC_SET.f` writes the field `f`, its eight fields in the order of 30_encoding.md R106; a
string of more than 255 bytes is refused. -/
def Obligations.DescSetWritesItsField : Prop :=
  ∀ (h : BitVec 16) (w : BitVec 32) (b : BitVec 8) (v : Bytes) (s : State),
    exec (.descSet0 h) s = .next { s with desc := { s.desc with classId := h }, out := .status .ok } ∧
      exec (.descSet1 h) s = .next { s with desc := { s.desc with typeId := h }, out := .status .ok } ∧
      exec (.descSet2 w) s = .next { s with desc := { s.desc with serial := w }, out := .status .ok } ∧
      exec (.descSet3 b) s = .next { s with desc := { s.desc with verMajor := b }, out := .status .ok } ∧
      exec (.descSet4 b) s = .next { s with desc := { s.desc with verMinor := b }, out := .status .ok } ∧
      exec (.descSet5 b) s = .next { s with desc := { s.desc with verRev := b }, out := .status .ok } ∧
      (v.length ≤ 255 →
        exec (.descSet6 v) s = .next { s with desc := { s.desc with name := v }, out := .status .ok } ∧
          exec (.descSet7 v) s = .next { s with desc := { s.desc with info := v }, out := .status .ok }) ∧
      (255 < v.length →
        exec (.descSet6 v) s = .next { s with out := .status .valueTooLong } ∧
          exec (.descSet7 v) s = .next { s with out := .status .valueTooLong })

/-- 45_tx_and_host.md R282: `DESC_GET.f` answers the field `f` and has no side effect. -/
def Obligations.DescGetReadsItsField : Prop :=
  ∀ s : State,
    exec .descGet0 s = .next { s with out := .value (.unsigned s.desc.classId.toNat) } ∧
      exec .descGet1 s = .next { s with out := .value (.unsigned s.desc.typeId.toNat) } ∧
      exec .descGet2 s = .next { s with out := .value (.unsigned s.desc.serial.toNat) } ∧
      exec .descGet3 s = .next { s with out := .value (.unsigned s.desc.verMajor.toNat) } ∧
      exec .descGet4 s = .next { s with out := .value (.unsigned s.desc.verMinor.toNat) } ∧
      exec .descGet5 s = .next { s with out := .value (.unsigned s.desc.verRev.toNat) } ∧
      exec .descGet6 s = .next { s with out := .value (.text s.desc.name) } ∧
      exec .descGet7 s = .next { s with out := .value (.text s.desc.info) }

/-! ### The step -/

/-- A step runs the decoded instruction (log 1, 2): at the host's turn the operation that the port's bytes spell, at the
transport's turn `RX_BYTE` of the oldest pending byte, which is popped (43_rx_framer.md section 1), or `RX_EMPTY`. -/
def Obligations.StepRunsTheDecodedInstruction : Prop :=
  ∀ (ts : List Turn) (s : State), s.cfg.Wf →
    (∀ (i : Instr) (rest : Bytes), s.turns = .host :: ts → s.hostPort ≠ [] →
      decode s.cfg .hostOp s.hostPort = .ok (i, rest) → step s = exec i { s with turns := ts, hostPort := rest }) ∧
    (∀ (b : Byte) (q : Bytes), s.turns = .receive :: ts → s.rxFifo = b :: q →
      step s = exec (.rxByte b) { s with turns := ts, rxFifo := q }) ∧
    (s.turns = .receive :: ts → s.rxFifo = [] → step s = exec .rxEmpty { s with turns := ts })

/-- The steps that run no instruction: bytes arriving on the link (20_memory.md section 2), a host with nothing to
issue, and no agent's turn, when "the block does nothing" (70_reset_and_hazards.md section 1); the turns are the model's
(log 1, 11, 21). A configuration the spec does not allow is refused (44_commands.md section 2; log 8). -/
def Obligations.StepsWithoutInstruction : Prop :=
  ∀ (ts : List Turn) (s : State),
    (s.cfg.Wf → ∀ bytes : Bytes, s.turns = .link bytes :: ts →
      step s = .next { s with turns := ts, rxFifo := s.rxFifo ++ bytes, out := .silent }) ∧
    (s.cfg.Wf → s.turns = .host :: ts → s.hostPort = [] → step s = .next { s with turns := ts, out := .silent }) ∧
    (s.cfg.Wf → s.turns = [] → step s = .next s) ∧
    (¬ s.cfg.Wf → step s = .refused .badConfiguration)

/-- 70_reset_and_hazards.md section 1 (R340, R341) with 10_state.md section 8 (R41): a reset puts every register at its
reset value and leaves the transport, the frames written, the time and the parameters alone; that it is a turn, and
leaves the agents' plans alone, is the model's (log 12). -/
def Obligations.ResetRestoresEveryRegister : Prop :=
  ∀ (ts : List Turn) (s : State), s.cfg.Wf → s.turns = .reset :: ts →
    step s = .next
      { cfg := s.cfg, x := [], rxState := .idle, rxLen := 0, curCmd := 0, rxBuf := [], rxChk := 0, dataAvailable := false,
        readFlag := false, err := 0, suppress := false, tStop := 0, rxLast := .none, lastCmd := 0, desc := s.cfg.descReset,
        rxFifo := s.rxFifo, txLog := s.txLog, now := s.now, timeAdvance := s.timeAdvance, turns := ts,
        hostPort := s.hostPort, out := .silent }

/-- 30_encoding.md section 6 (R107): at the host's turn a selection code outside R106's table, and no other, is invalid.
That the invalid code ends the run with a refusal by name is the model's choice (log 21), as are the host's turn and its
port (log 1, 2). -/
def Obligations.InvalidOperationsAreRefused : Prop :=
  ∀ (code : Byte) (ts : List Turn) (rest : Bytes) (s : State), s.cfg.Wf → s.turns = .host :: ts →
    s.hostPort = code :: rest →
    (¬ (code.toNat ≤ 0x08 ∨ 0x10 ≤ code.toNat ∧ code.toNat ≤ 0x18 ∨ 0x20 ≤ code.toNat ∧ code.toNat ≤ 0x23 ∨
        code.toNat = 0x30 ∨ 0x40 ≤ code.toNat ∧ code.toNat ≤ 0x44 ∨ 0x50 ≤ code.toNat ∧ code.toNat ≤ 0x57 ∨
        0x60 ≤ code.toNat ∧ code.toNat ≤ 0x67) ↔
      step s = .refused (.invalidOperation code))

/-! ### Whole-machine properties -/

/-- Every step keeps the invariant: allowed parameters, INV-WIDTH (10_state.md R23), the bounds of the store, the
descriptor and the receive buffer, and a framer whose registers agree with its state (R28, R29). -/
def Obligations.StepKeepsSoundState : Prop :=
  ∀ s t : State, SoundState s → step s = .next t → SoundState t

/-- The state after reset meets the invariant. -/
def Obligations.ResetStateIsSound : Prop := SoundState State.reset

/-- 20_memory.md section 2 (R66): whatever a step writes to the transport is one complete frame of 30_encoding.md R91,
and what was written before stays. -/
def Obligations.EveryTransmittedFrameIsWellFormed : Prop :=
  ∀ s t : State, step s = .next t → ∃ fs : List Bytes, t.txLog = s.txLog ++ fs ∧
    ∀ f ∈ fs, ∃ (cmd : Byte) (payload : Bytes), payload.length ≤ 65531 ∧ f = specFrame cmd payload

/-- 60_exceptions.md section 1 (R300), 00_scope.md section 5 (R11): every instruction completes in every state. -/
def Obligations.EveryInstructionCompletes : Prop :=
  ∀ (i : Instr) (s : State), ∃ t, exec i s = .next t

/-! ### Encodings -/

/-- Decode and encode agree on every well-formed instruction, in its own space, under every injective `TAG_CODE`. The
spec gives the encodings of frames, Records and selection codes; the bytes of a host operation's operands are the
model's own form (log 2). -/
def Obligations.DecodeOfEncodeIsTheInstruction : Prop :=
  ∀ (cfg : Config) (i : Instr), cfg.tagCode.toList.Nodup → wellFormed cfg i = true →
    decode cfg (spaceOf i) (encode cfg i) = .ok (i, [])

/-- Each byte sequence has one meaning in a space: what decodes is well formed, belongs to the space, and encodes back
to the bytes consumed. The bytes of a host operation's operands are the model's own form (log 2). -/
def Obligations.EachEncodingHasOneMeaning : Prop :=
  ∀ (cfg : Config) (space : Space) (bytes rest : Bytes) (i : Instr), decode cfg space bytes = .ok (i, rest) →
    wellFormed cfg i = true ∧ spaceOf i = space ∧ bytes = encode cfg i ++ rest

/-- Words written out from the spec's encodings decode to the instructions they stand for: the 8-byte frames of
30_encoding.md R92, two Records of 42_codec.md R191 and R199, the selection codes of 30_encoding.md R106, the receive
steps of 00_scope.md section 5 (R12). That `SEND`'s operand is the one byte after its code is the model's own form (log
2). -/
def Obligations.SpecWordsDecode : Prop :=
  decode .standard .frame [0xAA#8, 0xBB#8, 0x00#8, 0x04#8, 0x50#8, 0x00#8, 0x00#8, 0xDD#8] = .ok (.getInfo [], []) ∧
    decode .standard .frame [0xAA#8, 0xBB#8, 0x00#8, 0x04#8, 0x72#8, 0x00#8, 0x00#8, 0xDD#8] = .ok (.stopData [], []) ∧
    decode .standard .record [0x00#8, 0x01#8, 0x61#8, 0xFE#8] = .ok (.recI8 [0x61#8] [0xFE#8], []) ∧
    decode .standard .record [0x08#8, 0x01#8, 0x73#8, 0x02#8, 0x68#8, 0x69#8] =
      .ok (.recStr [0x73#8] [0x68#8, 0x69#8], []) ∧
    decode .standard .hostOp [0x21#8] = .ok (.clear, []) ∧
    decode .standard .hostOp [0x41#8, 0x69#8] = .ok (.send 0x69#8, []) ∧
    decode .standard .rxStep [0xAA#8] = .ok (.rxByte 0xAA#8, []) ∧
    decode .standard .rxStep [] = .ok (.rxEmpty, [])
end

