-- ==== Sys2Proof/Laws/Bits.lean ====
section
/-! SUPPORT. Numbers as byte sequences, the two halves of a 16-bit field, and the tag codes. -/

namespace Sys2Proof.Machine

@[simp] theorem leBytes_length (w u : Nat) : (leBytes w u).length = w := by
  induction w generalizing u with
  | zero => rfl
  | succ w ih => simp [leBytes, ih]

@[simp] theorem beBytes_length (w u : Nat) : (beBytes w u).length = w := by simp [beBytes]

@[simp] theorem ordBytes_length (o : ByteOrder) (w u : Nat) : (ordBytes o w u).length = w := by
  cases o <;> simp [ordBytes]

/-- Bytes of a number read back as the number, within their width. -/
theorem leValue_leBytes (w u : Nat) : leValue (leBytes w u) = u % 256 ^ w := by
  induction w generalizing u with
  | zero => simp [leBytes, leValue, Nat.mod_one]
  | succ w ih =>
    rw [leBytes, leValue, ih, BitVec.toNat_ofNat, show (256 : Nat) ^ (w + 1) = 256 * 256 ^ w by rw [pow_succ, mul_comm],
      Nat.mod_mul]

theorem beValue_beBytes (w u : Nat) : beValue (beBytes w u) = u % 256 ^ w := by
  simp [beValue, beBytes, leValue_leBytes]

theorem ordValue_ordBytes (o : ByteOrder) (w u : Nat) : ordValue o (ordBytes o w u) = u % 256 ^ w := by
  cases o
  · exact leValue_leBytes w u
  · exact beValue_beBytes w u

/-- The bytes of the number that bytes hold are those bytes. -/
theorem leBytes_leValue (p : Bytes) : leBytes p.length (leValue p) = p := by
  induction p with
  | nil => rfl
  | cons b p ih =>
    have hb := b.isLt
    simp only [List.length_cons, leBytes, leValue]
    rw [show (b.toNat + 256 * leValue p) / 256 = leValue p by omega, ih]
    congr 1
    apply BitVec.eq_of_toNat_eq
    simp
    omega

theorem leValue_lt (p : Bytes) : leValue p < 256 ^ p.length := by
  induction p with
  | nil => simp [leValue]
  | cons b p ih =>
    have hb := b.isLt
    simp only [leValue, List.length_cons, pow_succ]
    omega

theorem joinBytes_toNat (h l : Byte) : (joinBytes h l).toNat = h.toNat * 256 + l.toNat := by
  have hl := l.isLt
  rw [joinBytes]
  change (BitVec.append h l).toNat = _
  rw [show BitVec.append h l = h ++ l from rfl, BitVec.toNat_append, ← Nat.shiftLeft_add_eq_or_of_lt hl,
    Nat.shiftLeft_eq]

theorem hiByte_toNat (h : Half) : (hiByte h).toNat = h.toNat / 256 := by
  have := h.isLt
  simp only [hiByte, BitVec.extractLsb'_toNat, Nat.shiftRight_eq_div_pow]
  omega

theorem loByte_toNat (h : Half) : (loByte h).toNat = h.toNat % 256 := by
  simp [loByte, BitVec.extractLsb'_toNat]

@[simp] theorem hiByte_joinBytes (h l : Byte) : hiByte (joinBytes h l) = h := by
  apply BitVec.eq_of_toNat_eq
  have := l.isLt
  rw [hiByte_toNat, joinBytes_toNat]
  omega

@[simp] theorem loByte_joinBytes (h l : Byte) : loByte (joinBytes h l) = l := by
  apply BitVec.eq_of_toNat_eq
  have := l.isLt
  rw [loByte_toNat, joinBytes_toNat]
  omega

@[simp] theorem joinBytes_hiByte_loByte (h : Half) : joinBytes (hiByte h) (loByte h) = h := by
  apply BitVec.eq_of_toNat_eq
  rw [joinBytes_toNat, hiByte_toNat, loByte_toNat]
  omega

/-- A byte that spells a tag is that tag's code. -/
theorem tagCode_of_tagOf? {cfg : Config} {b : Byte} {t : Tag} (h : tagOf? cfg b = some t) : tagCode cfg t = b := by
  simpa using List.find?_some h

/-- Distinct codes spell distinct tags. -/
theorem tagCode_injective {cfg : Config} (h : cfg.tagCode.toList.Nodup) {t u : Tag} (e : tagCode cfg t = tagCode cfg u) :
    t = u := by
  simp only [TagCodes.toList, List.nodup_cons, List.mem_cons, not_or, List.not_mem_nil, not_false_eq_true, and_true,
    List.nodup_nil] at h
  cases t <;> cases u <;> first | rfl | (simp only [tagCode] at e; simp [e] at h)

/-- With an injective `TAG_CODE`, a tag's code spells it (30_encoding.md R100). -/
theorem tagOf?_tagCode {cfg : Config} (h : cfg.tagCode.toList.Nodup) (t : Tag) : tagOf? cfg (tagCode cfg t) = some t := by
  cases hf : tagOf? cfg (tagCode cfg t) with
  | none =>
    have := List.find?_eq_none.mp hf t (by cases t <;> simp [allTags])
    simp at this
  | some u => rw [tagCode_injective h (tagCode_of_tagOf? hf)]

/-- A byte spells no tag exactly when it is the code of none (30_encoding.md R103). -/
theorem tagOf?_eq_none {cfg : Config} {b : Byte} : tagOf? cfg b = none ↔ ∀ t, tagCode cfg t ≠ b := by
  constructor
  · intro h t
    simpa using List.find?_eq_none.mp h t (by cases t <;> simp [allTags])
  · intro h
    exact List.find?_eq_none.mpr fun t _ => by simpa using h t

end Sys2Proof.Machine
end

