-- ==== Sys2Proof/Laws/State.lean ====
section
/-! SUPPORT. One lemma for each field of each named update of the state, so that no proof unfolds an update. -/

namespace Sys2Proof.Machine

variable (s : State)

/-! ### answer -/

@[simp] theorem answer_cfg (o : Output) : (answer o s).cfg = s.cfg := rfl
@[simp] theorem answer_x (o : Output) : (answer o s).x = s.x := rfl
@[simp] theorem answer_rxState (o : Output) : (answer o s).rxState = s.rxState := rfl
@[simp] theorem answer_rxLen (o : Output) : (answer o s).rxLen = s.rxLen := rfl
@[simp] theorem answer_curCmd (o : Output) : (answer o s).curCmd = s.curCmd := rfl
@[simp] theorem answer_rxBuf (o : Output) : (answer o s).rxBuf = s.rxBuf := rfl
@[simp] theorem answer_rxChk (o : Output) : (answer o s).rxChk = s.rxChk := rfl
@[simp] theorem answer_dataAvailable (o : Output) : (answer o s).dataAvailable = s.dataAvailable := rfl
@[simp] theorem answer_readFlag (o : Output) : (answer o s).readFlag = s.readFlag := rfl
@[simp] theorem answer_err (o : Output) : (answer o s).err = s.err := rfl
@[simp] theorem answer_suppress (o : Output) : (answer o s).suppress = s.suppress := rfl
@[simp] theorem answer_tStop (o : Output) : (answer o s).tStop = s.tStop := rfl
@[simp] theorem answer_rxLast (o : Output) : (answer o s).rxLast = s.rxLast := rfl
@[simp] theorem answer_lastCmd (o : Output) : (answer o s).lastCmd = s.lastCmd := rfl
@[simp] theorem answer_desc (o : Output) : (answer o s).desc = s.desc := rfl
@[simp] theorem answer_rxFifo (o : Output) : (answer o s).rxFifo = s.rxFifo := rfl
@[simp] theorem answer_txLog (o : Output) : (answer o s).txLog = s.txLog := rfl
@[simp] theorem answer_now (o : Output) : (answer o s).now = s.now := rfl
@[simp] theorem answer_timeAdvance (o : Output) : (answer o s).timeAdvance = s.timeAdvance := rfl
@[simp] theorem answer_turns (o : Output) : (answer o s).turns = s.turns := rfl
@[simp] theorem answer_hostPort (o : Output) : (answer o s).hostPort = s.hostPort := rfl
@[simp] theorem answer_out (o : Output) : (answer o s).out = o := rfl

/-! ### rxDone -/

@[simp] theorem rxDone_cfg : (rxDone s).cfg = s.cfg := rfl
@[simp] theorem rxDone_x : (rxDone s).x = s.x := rfl
@[simp] theorem rxDone_rxState : (rxDone s).rxState = s.rxState := rfl
@[simp] theorem rxDone_rxLen : (rxDone s).rxLen = s.rxLen := rfl
@[simp] theorem rxDone_curCmd : (rxDone s).curCmd = s.curCmd := rfl
@[simp] theorem rxDone_rxBuf : (rxDone s).rxBuf = s.rxBuf := rfl
@[simp] theorem rxDone_rxChk : (rxDone s).rxChk = s.rxChk := rfl
@[simp] theorem rxDone_dataAvailable : (rxDone s).dataAvailable = s.dataAvailable := rfl
@[simp] theorem rxDone_readFlag : (rxDone s).readFlag = s.readFlag := rfl
@[simp] theorem rxDone_err : (rxDone s).err = s.err := rfl
@[simp] theorem rxDone_suppress : (rxDone s).suppress = s.suppress := rfl
@[simp] theorem rxDone_tStop : (rxDone s).tStop = s.tStop := rfl
@[simp] theorem rxDone_rxLast : (rxDone s).rxLast = s.rxLast := rfl
@[simp] theorem rxDone_lastCmd : (rxDone s).lastCmd = s.lastCmd := rfl
@[simp] theorem rxDone_desc : (rxDone s).desc = s.desc := rfl
@[simp] theorem rxDone_rxFifo : (rxDone s).rxFifo = s.rxFifo := rfl
@[simp] theorem rxDone_txLog : (rxDone s).txLog = s.txLog := rfl
@[simp] theorem rxDone_now : (rxDone s).now = s.now := rfl
@[simp] theorem rxDone_timeAdvance : (rxDone s).timeAdvance = s.timeAdvance := rfl
@[simp] theorem rxDone_turns : (rxDone s).turns = s.turns := rfl
@[simp] theorem rxDone_hostPort : (rxDone s).hostPort = s.hostPort := rfl
@[simp] theorem rxDone_out : (rxDone s).out = .raised .ok := rfl

/-! ### acceptFrame -/

@[simp] theorem acceptFrame_cfg (c : Byte) : (acceptFrame c s).cfg = s.cfg := rfl
@[simp] theorem acceptFrame_x (c : Byte) : (acceptFrame c s).x = s.x := rfl
@[simp] theorem acceptFrame_rxState (c : Byte) : (acceptFrame c s).rxState = .idle := rfl
@[simp] theorem acceptFrame_rxLen (c : Byte) : (acceptFrame c s).rxLen = s.rxLen := rfl
@[simp] theorem acceptFrame_curCmd (c : Byte) : (acceptFrame c s).curCmd = s.curCmd := rfl
@[simp] theorem acceptFrame_rxBuf (c : Byte) : (acceptFrame c s).rxBuf = s.rxBuf := rfl
@[simp] theorem acceptFrame_rxChk (c : Byte) : (acceptFrame c s).rxChk = s.rxChk := rfl
@[simp] theorem acceptFrame_dataAvailable (c : Byte) : (acceptFrame c s).dataAvailable = s.dataAvailable := rfl
@[simp] theorem acceptFrame_readFlag (c : Byte) : (acceptFrame c s).readFlag = s.readFlag := rfl
@[simp] theorem acceptFrame_err (c : Byte) : (acceptFrame c s).err = s.err := rfl
@[simp] theorem acceptFrame_suppress (c : Byte) : (acceptFrame c s).suppress = s.suppress := rfl
@[simp] theorem acceptFrame_tStop (c : Byte) : (acceptFrame c s).tStop = s.tStop := rfl
@[simp] theorem acceptFrame_rxLast (c : Byte) : (acceptFrame c s).rxLast = .packetComplete := rfl
@[simp] theorem acceptFrame_lastCmd (c : Byte) : (acceptFrame c s).lastCmd = c := rfl
@[simp] theorem acceptFrame_desc (c : Byte) : (acceptFrame c s).desc = s.desc := rfl
@[simp] theorem acceptFrame_rxFifo (c : Byte) : (acceptFrame c s).rxFifo = s.rxFifo := rfl
@[simp] theorem acceptFrame_txLog (c : Byte) : (acceptFrame c s).txLog = s.txLog := rfl
@[simp] theorem acceptFrame_now (c : Byte) : (acceptFrame c s).now = s.now := rfl
@[simp] theorem acceptFrame_timeAdvance (c : Byte) : (acceptFrame c s).timeAdvance = s.timeAdvance := rfl
@[simp] theorem acceptFrame_turns (c : Byte) : (acceptFrame c s).turns = s.turns := rfl
@[simp] theorem acceptFrame_hostPort (c : Byte) : (acceptFrame c s).hostPort = s.hostPort := rfl
@[simp] theorem acceptFrame_out (c : Byte) : (acceptFrame c s).out = s.out := rfl

/-! ### transportWrite -/

@[simp] theorem transportWrite_cfg (f : Bytes) : (transportWrite f s).cfg = s.cfg := rfl
@[simp] theorem transportWrite_x (f : Bytes) : (transportWrite f s).x = s.x := rfl
@[simp] theorem transportWrite_rxState (f : Bytes) : (transportWrite f s).rxState = s.rxState := rfl
@[simp] theorem transportWrite_rxLen (f : Bytes) : (transportWrite f s).rxLen = s.rxLen := rfl
@[simp] theorem transportWrite_curCmd (f : Bytes) : (transportWrite f s).curCmd = s.curCmd := rfl
@[simp] theorem transportWrite_rxBuf (f : Bytes) : (transportWrite f s).rxBuf = s.rxBuf := rfl
@[simp] theorem transportWrite_rxChk (f : Bytes) : (transportWrite f s).rxChk = s.rxChk := rfl
@[simp] theorem transportWrite_dataAvailable (f : Bytes) : (transportWrite f s).dataAvailable = s.dataAvailable := rfl
@[simp] theorem transportWrite_readFlag (f : Bytes) : (transportWrite f s).readFlag = s.readFlag := rfl
@[simp] theorem transportWrite_err (f : Bytes) : (transportWrite f s).err = s.err := rfl
@[simp] theorem transportWrite_suppress (f : Bytes) : (transportWrite f s).suppress = s.suppress := rfl
@[simp] theorem transportWrite_tStop (f : Bytes) : (transportWrite f s).tStop = s.tStop := rfl
@[simp] theorem transportWrite_rxLast (f : Bytes) : (transportWrite f s).rxLast = s.rxLast := rfl
@[simp] theorem transportWrite_lastCmd (f : Bytes) : (transportWrite f s).lastCmd = s.lastCmd := rfl
@[simp] theorem transportWrite_desc (f : Bytes) : (transportWrite f s).desc = s.desc := rfl
@[simp] theorem transportWrite_rxFifo (f : Bytes) : (transportWrite f s).rxFifo = s.rxFifo := rfl
@[simp] theorem transportWrite_txLog (f : Bytes) : (transportWrite f s).txLog = s.txLog ++ [f] := rfl
@[simp] theorem transportWrite_now (f : Bytes) : (transportWrite f s).now = s.now := rfl
@[simp] theorem transportWrite_timeAdvance (f : Bytes) : (transportWrite f s).timeAdvance = s.timeAdvance := rfl
@[simp] theorem transportWrite_turns (f : Bytes) : (transportWrite f s).turns = s.turns := rfl
@[simp] theorem transportWrite_hostPort (f : Bytes) : (transportWrite f s).hostPort = s.hostPort := rfl
@[simp] theorem transportWrite_out (f : Bytes) : (transportWrite f s).out = s.out := rfl

/-! ### readTime -/

@[simp] theorem readTime_cfg : (readTime s).cfg = s.cfg := by unfold readTime; split <;> rfl
@[simp] theorem readTime_x : (readTime s).x = s.x := by unfold readTime; split <;> rfl
@[simp] theorem readTime_rxState : (readTime s).rxState = s.rxState := by unfold readTime; split <;> rfl
@[simp] theorem readTime_rxLen : (readTime s).rxLen = s.rxLen := by unfold readTime; split <;> rfl
@[simp] theorem readTime_curCmd : (readTime s).curCmd = s.curCmd := by unfold readTime; split <;> rfl
@[simp] theorem readTime_rxBuf : (readTime s).rxBuf = s.rxBuf := by unfold readTime; split <;> rfl
@[simp] theorem readTime_rxChk : (readTime s).rxChk = s.rxChk := by unfold readTime; split <;> rfl
@[simp] theorem readTime_dataAvailable : (readTime s).dataAvailable = s.dataAvailable := by unfold readTime; split <;> rfl
@[simp] theorem readTime_readFlag : (readTime s).readFlag = s.readFlag := by unfold readTime; split <;> rfl
@[simp] theorem readTime_err : (readTime s).err = s.err := by unfold readTime; split <;> rfl
@[simp] theorem readTime_suppress : (readTime s).suppress = s.suppress := by unfold readTime; split <;> rfl
@[simp] theorem readTime_tStop : (readTime s).tStop = s.tStop := by unfold readTime; split <;> rfl
@[simp] theorem readTime_rxLast : (readTime s).rxLast = s.rxLast := by unfold readTime; split <;> rfl
@[simp] theorem readTime_lastCmd : (readTime s).lastCmd = s.lastCmd := by unfold readTime; split <;> rfl
@[simp] theorem readTime_desc : (readTime s).desc = s.desc := by unfold readTime; split <;> rfl
@[simp] theorem readTime_rxFifo : (readTime s).rxFifo = s.rxFifo := by unfold readTime; split <;> rfl
@[simp] theorem readTime_txLog : (readTime s).txLog = s.txLog := by unfold readTime; split <;> rfl
@[simp] theorem readTime_turns : (readTime s).turns = s.turns := by unfold readTime; split <;> rfl
@[simp] theorem readTime_hostPort : (readTime s).hostPort = s.hostPort := by unfold readTime; split <;> rfl
@[simp] theorem readTime_out : (readTime s).out = s.out := by unfold readTime; split <;> rfl

/-! ### raiseError -/

@[simp] theorem raiseError_cfg (e : Status) : (raiseError e s).cfg = s.cfg := by cases e <;> rfl
@[simp] theorem raiseError_rxLen (e : Status) : (raiseError e s).rxLen = s.rxLen := by cases e <;> rfl
@[simp] theorem raiseError_curCmd (e : Status) : (raiseError e s).curCmd = s.curCmd := by cases e <;> rfl
@[simp] theorem raiseError_rxBuf (e : Status) : (raiseError e s).rxBuf = s.rxBuf := by cases e <;> rfl
@[simp] theorem raiseError_rxChk (e : Status) : (raiseError e s).rxChk = s.rxChk := by cases e <;> rfl
@[simp] theorem raiseError_readFlag (e : Status) : (raiseError e s).readFlag = s.readFlag := by cases e <;> rfl
@[simp] theorem raiseError_suppress (e : Status) : (raiseError e s).suppress = s.suppress := by cases e <;> rfl
@[simp] theorem raiseError_tStop (e : Status) : (raiseError e s).tStop = s.tStop := by cases e <;> rfl
@[simp] theorem raiseError_lastCmd (e : Status) : (raiseError e s).lastCmd = s.lastCmd := by cases e <;> rfl
@[simp] theorem raiseError_desc (e : Status) : (raiseError e s).desc = s.desc := by cases e <;> rfl
@[simp] theorem raiseError_rxFifo (e : Status) : (raiseError e s).rxFifo = s.rxFifo := by cases e <;> rfl
@[simp] theorem raiseError_txLog (e : Status) : (raiseError e s).txLog = s.txLog := by cases e <;> rfl
@[simp] theorem raiseError_now (e : Status) : (raiseError e s).now = s.now := by cases e <;> rfl
@[simp] theorem raiseError_timeAdvance (e : Status) : (raiseError e s).timeAdvance = s.timeAdvance := by cases e <;> rfl
@[simp] theorem raiseError_turns (e : Status) : (raiseError e s).turns = s.turns := by cases e <;> rfl
@[simp] theorem raiseError_hostPort (e : Status) : (raiseError e s).hostPort = s.hostPort := by cases e <;> rfl
@[simp] theorem raiseError_out (e : Status) : (raiseError e s).out = s.out := by cases e <;> rfl

/-! ### resetBlock -/

@[simp] theorem resetBlock_cfg : (resetBlock s).cfg = s.cfg := rfl
@[simp] theorem resetBlock_x : (resetBlock s).x = [] := rfl
@[simp] theorem resetBlock_rxState : (resetBlock s).rxState = .idle := rfl
@[simp] theorem resetBlock_rxLen : (resetBlock s).rxLen = 0 := rfl
@[simp] theorem resetBlock_curCmd : (resetBlock s).curCmd = 0 := rfl
@[simp] theorem resetBlock_rxBuf : (resetBlock s).rxBuf = [] := rfl
@[simp] theorem resetBlock_rxChk : (resetBlock s).rxChk = 0 := rfl
@[simp] theorem resetBlock_dataAvailable : (resetBlock s).dataAvailable = false := rfl
@[simp] theorem resetBlock_readFlag : (resetBlock s).readFlag = false := rfl
@[simp] theorem resetBlock_err : (resetBlock s).err = 0 := rfl
@[simp] theorem resetBlock_suppress : (resetBlock s).suppress = false := rfl
@[simp] theorem resetBlock_tStop : (resetBlock s).tStop = 0 := rfl
@[simp] theorem resetBlock_rxLast : (resetBlock s).rxLast = .none := rfl
@[simp] theorem resetBlock_lastCmd : (resetBlock s).lastCmd = 0 := rfl
@[simp] theorem resetBlock_desc : (resetBlock s).desc = s.cfg.descReset := rfl
@[simp] theorem resetBlock_rxFifo : (resetBlock s).rxFifo = s.rxFifo := rfl
@[simp] theorem resetBlock_txLog : (resetBlock s).txLog = s.txLog := rfl
@[simp] theorem resetBlock_now : (resetBlock s).now = s.now := rfl
@[simp] theorem resetBlock_timeAdvance : (resetBlock s).timeAdvance = s.timeAdvance := rfl
@[simp] theorem resetBlock_turns : (resetBlock s).turns = s.turns := rfl
@[simp] theorem resetBlock_hostPort : (resetBlock s).hostPort = s.hostPort := rfl
@[simp] theorem resetBlock_out : (resetBlock s).out = .silent := rfl

/-! ### readTime's own fields -/

theorem readTime_of_nil (h : s.timeAdvance = []) : readTime s = s := by
  unfold readTime; rw [h]

theorem readTime_of_cons {d : Time} {ds : List Time} (h : s.timeAdvance = d :: ds) :
    readTime s = { s with now := s.now + d, timeAdvance := ds } := by
  unfold readTime; rw [h]

end Sys2Proof.Machine
end

