-- ==== Sys2Proof/Laws/Store.lean ====
section
/-! SUPPORT. What the Record Store's shared operations can do, and that they keep its invariants. -/

namespace Sys2Proof.Machine

/-! ### findKey -/

theorem findKey_eq_none {x : List Record} {k : Bytes} : findKey x k = none ↔ ∀ r ∈ x, r.key ≠ k := by
  simp [findKey, List.findIdx?_eq_none_iff]

/-- The first Record with the key decides (41_record_store.md R152). -/
theorem findKey_append {pre post : List Record} {r : Record} (h : ∀ q ∈ pre, q.key ≠ r.key) :
    findKey (pre ++ r :: post) r.key = some pre.length := by
  induction pre with
  | nil => simp [findKey, List.findIdx?_cons]
  | cons p pre ih =>
    have hp : (p.key == r.key) = false := by simpa using h p (by simp)
    have ih := ih fun q hq => h q (by simp [hq])
    simp only [findKey] at ih ⊢
    simp [List.findIdx?_cons, hp, ih]

/-- A key that is found splits the store at its first Record. -/
theorem exists_split_of_findKey {x : List Record} {k : Bytes} {i : Nat} (h : findKey x k = some i) :
    ∃ pre r post, x = pre ++ r :: post ∧ (∀ q ∈ pre, q.key ≠ k) ∧ r.key = k ∧ i = pre.length := by
  obtain ⟨hi, hk, hlt⟩ := List.findIdx?_eq_some_iff_getElem.mp h
  refine ⟨x.take i, x[i], x.drop (i + 1), ?_, ?_, by simpa using hk, by simp; omega⟩
  · rw [List.getElem_cons_drop, List.take_append_drop]
  · intro q hq
    obtain ⟨j, hj, rfl⟩ := List.mem_iff_getElem.mp hq
    have hji : j < i := by simp at hj; omega
    simpa using hlt j hji

/-- The key is in the store or it is not; in the first case it splits the store. -/
theorem key_cases (x : List Record) (k : Bytes) :
    (∀ r ∈ x, r.key ≠ k) ∨ ∃ pre r post, x = pre ++ r :: post ∧ (∀ q ∈ pre, q.key ≠ k) ∧ r.key = k := by
  cases h : findKey x k with
  | none => exact .inl (findKey_eq_none.mp h)
  | some i =>
    obtain ⟨pre, r, post, hx, hpre, hr, -⟩ := exists_split_of_findKey h
    exact .inr ⟨pre, r, post, hx, hpre, hr⟩

/-! ### storeSet -/

/-- The operands `storeSet` accepts (41_record_store.md R155). -/
def Settable (r : Record) : Prop := r.key.length ≤ keyMax ∧ (r.tag = .str → r.payload.length ≤ strMax)

theorem storeSet_of_settable {cfg : Config} {r : Record} {x : List Record} (h : Settable r) :
    storeSet cfg r x =
      match findKey x r.key with
      | none => if storeIsFull cfg x then .error .storeFull else .ok (x ++ [r])
      | some i => if (x[i]?).map Record.tag = some r.tag then .ok (x.set i r) else .ok (x.eraseIdx i ++ [r]) := by
  have h1 : ¬ keyMax < r.key.length := by have := h.1; omega
  have h2 : ¬ (r.tag = .str ∧ strMax < r.payload.length) := fun hc => by have := h.2 hc.1; omega
  exact (if_neg h1).trans (if_neg h2)

/-- A key not in the store is appended (R153). -/
theorem storeSet_absent {cfg : Config} {r : Record} {x : List Record} (h : Settable r) (ha : ∀ q ∈ x, q.key ≠ r.key) :
    storeSet cfg r x = if storeIsFull cfg x then .error .storeFull else .ok (x ++ [r]) := by
  rw [storeSet_of_settable h, findKey_eq_none.mpr ha]

/-- A key in the store: overwritten in place, or moved to the end (R153, R154). -/
theorem storeSet_present {cfg : Config} {r q : Record} {pre post : List Record} (h : Settable r)
    (hpre : ∀ p ∈ pre, p.key ≠ r.key) (hq : q.key = r.key) :
    storeSet cfg r (pre ++ q :: post) =
      if q.tag = r.tag then .ok (pre ++ r :: post) else .ok (pre ++ post ++ [r]) := by
  rw [storeSet_of_settable h, ← hq, findKey_append fun p hp => by rw [hq]; exact hpre p hp]
  simp [List.eraseIdx_append]

theorem storeSet_keyTooLong {cfg : Config} {r : Record} {x : List Record} (h : keyMax < r.key.length) :
    storeSet cfg r x = .error .keyTooLong := by simp only [storeSet, h, if_true]

theorem storeSet_valueTooLong {cfg : Config} {r : Record} {x : List Record} (hk : r.key.length ≤ keyMax)
    (ht : r.tag = .str) (h : strMax < r.payload.length) : storeSet cfg r x = .error .valueTooLong := by
  have h1 : ¬ keyMax < r.key.length := by omega
  simp only [storeSet, h1, ht, h, if_false, true_and, if_true]

/-- Everything `storeSet` can do when it succeeds. -/
theorem storeSet_ok {cfg : Config} {r : Record} {x y : List Record} (h : storeSet cfg r x = .ok y) :
    Settable r ∧
      ((∀ q ∈ x, q.key ≠ r.key) ∧ storeIsFull cfg x = false ∧ y = x ++ [r] ∨
        ∃ pre q post, x = pre ++ q :: post ∧ (∀ p ∈ pre, p.key ≠ r.key) ∧ q.key = r.key ∧
          (q.tag = r.tag ∧ y = pre ++ r :: post ∨ q.tag ≠ r.tag ∧ y = pre ++ post ++ [r])) := by
  have hs : Settable r := by
    refine ⟨?_, fun ht => ?_⟩
    · by_contra hc
      simp [storeSet_keyTooLong (cfg := cfg) (x := x) (r := r) (by omega)] at h
    · by_contra hc
      by_cases hk : r.key.length ≤ keyMax
      · simp [storeSet_valueTooLong (cfg := cfg) (x := x) hk ht (by omega)] at h
      · simp [storeSet_keyTooLong (cfg := cfg) (x := x) (r := r) (by omega)] at h
  refine ⟨hs, ?_⟩
  obtain ha | ⟨pre, q, post, rfl, hpre, hq⟩ := key_cases x r.key
  · rw [storeSet_absent hs ha] at h
    split at h
    · cases h
    · exact .inl ⟨ha, by simp_all, by simpa using h.symm⟩
  · rw [storeSet_present hs hpre hq] at h
    refine .inr ⟨pre, q, post, rfl, hpre, hq, ?_⟩
    split at h
    · exact .inl ⟨‹_›, by simpa using h.symm⟩
    · exact .inr ⟨‹_›, by simpa using h.symm⟩

/-- A Record is in the store after a `SET` only if it was there or is the one set. -/
theorem mem_of_storeSet {cfg : Config} {r : Record} {x y : List Record} (h : storeSet cfg r x = .ok y) {q : Record}
    (hq : q ∈ y) : q = r ∨ q ∈ x := by
  obtain ⟨-, ⟨-, -, rfl⟩ | ⟨pre, q', post, rfl, -, -, ⟨-, rfl⟩ | ⟨-, rfl⟩⟩⟩ := storeSet_ok h <;>
    simp only [List.mem_append, List.mem_cons, List.not_mem_nil, or_false] at hq ⊢ <;> tauto

/-- `SET` of a fitting Record keeps INV-WIDTH (10_state.md R23). -/
theorem storeFits_storeSet {cfg : Config} {r : Record} {x y : List Record} (h : storeSet cfg r x = .ok y)
    (hr : recordFits r = true) (hx : StoreFits x) : StoreFits y := fun q hq => by
  obtain rfl | hq := mem_of_storeSet h hq
  · exact hr
  · exact hx q hq

theorem storeIsFull_eq_false {cfg : Config} {x : List Record} :
    storeIsFull cfg x = false ↔ cfg.storeMaxRecords ≠ some x.length := by simp [storeIsFull]

/-- Appending to a store that is not full keeps its bound (41_record_store.md R156). -/
theorem storeInBounds_append {cfg : Config} {r : Record} {x : List Record} (hf : storeIsFull cfg x = false)
    (hx : StoreInBounds cfg x) : StoreInBounds cfg (x ++ [r]) := fun n hn => by
  have h1 := hx n hn
  have h2 := storeIsFull_eq_false.mp hf
  rw [Option.mem_def] at hn
  have : n ≠ x.length := fun he => h2 (by rw [hn, he])
  simp; omega

/-- `SET` keeps the store's bound (R154: one Record leaves before one enters). -/
theorem storeInBounds_storeSet {cfg : Config} {r : Record} {x y : List Record} (h : storeSet cfg r x = .ok y)
    (hx : StoreInBounds cfg x) : StoreInBounds cfg y := by
  obtain ⟨-, ⟨-, hf, rfl⟩ | ⟨pre, q, post, rfl, -, -, ⟨-, rfl⟩ | ⟨-, rfl⟩⟩⟩ := storeSet_ok h
  · exact storeInBounds_append hf hx
  · intro n hn; simpa using hx n hn
  · intro n hn; have := hx n hn; simp at this ⊢; omega

/-! ### setField, getField, appendRecord, appendField, putField -/

/-- `SET`: the store is written and OK answered, or only a status is answered. -/
theorem setField_cases (r : Record) (s : State) :
    (∃ y, storeSet s.cfg r s.x = .ok y ∧ setField r s = { s with x := y, out := .status .ok }) ∨
      ∃ e, storeSet s.cfg r s.x = .error e ∧ setField r s = { s with out := .status e } := by
  unfold setField
  split
  · exact .inl ⟨_, ‹_›, rfl⟩
  · exact .inr ⟨_, ‹_›, rfl⟩

theorem getField_absent {t : Tag} {k : Bytes} {s : State} (h : ∀ r ∈ s.x, r.key ≠ k) :
    getField t k s = { s with out := .reading .keyAbsent (defaultOf t) } := by
  have : s.x.find? (fun r => r.key == k) = none := List.find?_eq_none.mpr fun r hr => by simpa using h r hr
  simp only [getField, this]
  rfl

theorem getField_present {t : Tag} {k : Bytes} {s : State} {pre post : List Record} {r : Record}
    (hx : s.x = pre ++ r :: post) (hpre : ∀ q ∈ pre, q.key ≠ k) (hr : r.key = k) :
    getField t k s = { s with readFlag := true, out := readRecord s.cfg.valueOrder t r.payload } := by
  have hp : pre.find? (fun q => q.key == k) = none := List.find?_eq_none.mpr fun q hq => by simpa using hpre q hq
  have : s.x.find? (fun q => q.key == k) = some r := by simp [hx, List.find?_append, hp, hr]
  simp only [getField, this]
  rfl

/-- `GET` answers something, and writes nothing but `read_flag` (R157). -/
theorem getField_frame (t : Tag) (k : Bytes) (s : State) :
    ∃ f o, getField t k s = { s with readFlag := f, out := o } := by
  unfold getField
  split
  · exact ⟨s.readFlag, _, rfl⟩
  · exact ⟨true, _, rfl⟩

theorem appendRecord_ok {cfg : Config} {r : Record} {x y : List Record} (h : appendRecord cfg r x = .ok y) :
    storeIsFull cfg x = false ∧ y = x ++ [r] := by
  unfold appendRecord at h
  split at h
  · cases h
  · exact ⟨by simp_all, by simpa using h.symm⟩

theorem appendRecord_error {cfg : Config} {r : Record} {x : List Record} {e : Status} (h : appendRecord cfg r x = .error e) :
    storeIsFull cfg x = true ∧ e = .storeFull := by
  unfold appendRecord at h
  split at h
  · exact ⟨‹_›, by simpa using h.symm⟩
  · cases h

/-- A Record form appends, or fails and empties the store. -/
theorem appendField_cases (r : Record) (s : State) :
    storeIsFull s.cfg s.x = false ∧ appendField r s = { s with x := s.x ++ [r], out := .status .ok } ∨
      storeIsFull s.cfg s.x = true ∧ appendField r s = { s with x := [], out := .status .storeFull } := by
  unfold appendField appendRecord
  cases h : storeIsFull s.cfg s.x
  · exact .inl ⟨rfl, by simp [answer]⟩
  · exact .inr ⟨rfl, by simp [answer]⟩

/-- A `SET` inside the dispatch sets or changes nothing. -/
theorem putField_cases (cfg : Config) (x : List Record) (r : Record) :
    storeSet cfg r x = .ok (putField cfg x r) ∨ putField cfg x r = x := by
  unfold putField
  split
  · exact .inl ‹_›
  · exact .inr rfl

end Sys2Proof.Machine
end

