-- ==== Sys2Proof/Laws/Codec.lean ====
section
/-! SUPPORT. The Record parser and the decoding loop: what they answer, and that the loop's fuel does not matter. -/

namespace Sys2Proof.Machine

/-! ### Decoded.then -/

@[simp] theorem then_ok {α β : Type} (a : α) (s : Bytes) (f : α → Bytes → Decoded β) :
    Decoded.then (.ok (a, s)) f = f a s := rfl

@[simp] theorem then_error {α β : Type} (e : DecodeError) (f : α → Bytes → Decoded β) :
    Decoded.then (.error e) f = .error e := rfl

theorem then_eq_ok {α β : Type} {d : Decoded α} {f : α → Bytes → Decoded β} {b : β × Bytes} (h : d.then f = .ok b) :
    ∃ a s, d = .ok (a, s) ∧ f a s = .ok b := by
  cases d with
  | error e => cases h
  | ok p => exact ⟨p.1, p.2, rfl, h⟩

/-! ### The pieces of a Record -/

theorem takeExactly_append (p rest : Bytes) : takeExactly p.length (p ++ rest) = .ok (p, rest) := by
  simp [takeExactly]

theorem takeExactly_ok {n : Nat} {s p rest : Bytes} (h : takeExactly n s = .ok (p, rest)) : s = p ++ rest ∧ p.length = n := by
  unfold takeExactly at h
  split at h
  · cases h
  · simp only [Except.ok.injEq, Prod.mk.injEq] at h
    obtain ⟨rfl, rfl⟩ := h
    exact ⟨(List.take_append_drop _ _).symm, by simp; omega⟩

theorem takeExactly_short {n : Nat} {s : Bytes} (h : s.length < n) : takeExactly n s = .error .recordCutShort := by
  simp [takeExactly, h]

/-- A length byte holds a length of at most 255 (30_encoding.md R101). -/
theorem toNat_lengthByte {n : Nat} (h : n ≤ 255) : (BitVec.ofNat 8 n).toNat = n := by
  simp; omega

theorem takeCounted_append {p : Bytes} (rest : Bytes) (h : p.length ≤ 255) :
    takeCounted (BitVec.ofNat 8 p.length :: (p ++ rest)) = .ok (p, rest) := by
  rw [takeCounted, toNat_lengthByte h, takeExactly_append]

theorem takeCounted_ok {s p rest : Bytes} (h : takeCounted s = .ok (p, rest)) :
    s = BitVec.ofNat 8 p.length :: (p ++ rest) ∧ p.length ≤ 255 := by
  cases s with
  | nil => cases h
  | cons n s =>
    obtain ⟨rfl, hn⟩ := takeExactly_ok h
    have := n.isLt
    exact ⟨by simp [hn], by omega⟩

theorem takeValue_ok {t : Tag} {s p rest : Bytes} (h : takeValue t s = .ok (p, rest)) :
    payloadFits t p.length = true ∧
      s = (match fixedWidth t with | some _ => p | none => BitVec.ofNat 8 p.length :: p) ++ rest := by
  unfold takeValue at h
  split at h
  · rename_i w hw
    obtain ⟨rfl, hp⟩ := takeExactly_ok h
    simp [payloadFits, hw, hp]
  · rename_i hw
    obtain ⟨rfl, hp⟩ := takeCounted_ok h
    simp [payloadFits, hw, hp]

/-! ### The Record -/

/-- `enc_rec(r)` in one line: the value's length byte is there exactly when the tag has no fixed width. -/
theorem encodeRecord_eq (cfg : Config) (r : Record) :
    encodeRecord cfg r = tagCode cfg r.tag :: BitVec.ofNat 8 r.key.length ::
      (r.key ++ (match fixedWidth r.tag with | some _ => r.payload | none => BitVec.ofNat 8 r.payload.length :: r.payload)) := by
  obtain ⟨t, k, p⟩ := r
  cases t <;> rfl

theorem recordFits_key {r : Record} (h : recordFits r = true) : r.key.length ≤ 255 := by
  simp [recordFits] at h; exact h.1

theorem recordFits_payload {r : Record} (h : recordFits r = true) : payloadFits r.tag r.payload.length = true := by
  simp [recordFits] at h; exact h.2

/-- A fitting Record's encoding parses to it, whatever follows (42_codec.md R190, R201). -/
theorem parseRecord_encodeRecord {cfg : Config} (hc : cfg.tagCode.toList.Nodup) {r : Record} (hr : recordFits r = true)
    (rest : Bytes) : parseRecord cfg (encodeRecord cfg r ++ rest) = .ok (r, rest) := by
  have hk := recordFits_key hr
  have hp := recordFits_payload hr
  obtain ⟨t, k, p⟩ := r
  rw [encodeRecord_eq]
  simp only [List.cons_append, List.append_assoc, parseRecord, tagOf?_tagCode hc]
  rw [takeCounted_append _ hk]
  simp only [then_ok, takeValue]
  unfold payloadFits at hp
  cases hw : fixedWidth t with
  | some w =>
    simp only [hw, beq_iff_eq] at hp
    simp only
    rw [← hp, takeExactly_append, then_ok]
  | none =>
    simp only [hw, decide_eq_true_eq] at hp
    simp only [List.cons_append]
    rw [takeCounted_append _ hp, then_ok]

/-- A Record that parses fits, and its encoding is what was parsed (42_codec.md R209). -/
theorem parseRecord_ok {cfg : Config} {s rest : Bytes} {r : Record} (h : parseRecord cfg s = .ok (r, rest)) :
    recordFits r = true ∧ s = encodeRecord cfg r ++ rest := by
  cases s with
  | nil => cases h
  | cons b s =>
    simp only [parseRecord] at h
    split at h
    · cases h
    · rename_i t ht
      obtain ⟨k, s₁, hk, h⟩ := then_eq_ok h
      obtain ⟨p, s₂, hp, h⟩ := then_eq_ok h
      simp only [Except.ok.injEq, Prod.mk.injEq] at h
      obtain ⟨rfl, rfl⟩ := h
      obtain ⟨rfl, hk'⟩ := takeCounted_ok hk
      obtain ⟨hp', rfl⟩ := takeValue_ok hp
      refine ⟨by simp only [recordFits, hp', Bool.and_true, decide_eq_true_eq]; exact hk', ?_⟩
      rw [encodeRecord_eq, tagCode_of_tagOf? ht]
      simp

theorem two_le_encodeRecord_length (cfg : Config) (r : Record) : 2 ≤ (encodeRecord cfg r).length := by
  rw [encodeRecord_eq]; simp

/-! ### The loop -/

/-- One round of the loop on a byte sequence that is not empty. -/
theorem decodeLoop_succ (cfg : Config) (n : Nat) (x : List Record) {s : Bytes} (hs : s ≠ []) :
    decodeLoop cfg (n + 1) x s =
      match parseRecord cfg s with
      | .error e => .error (decodeStatus e)
      | .ok (r, rest) =>
        match appendRecord cfg r x with
        | .error e => .error e
        | .ok y => decodeLoop cfg n y rest := by
  cases s with
  | nil => exact absurd rfl hs
  | cons b s => rfl

@[simp] theorem decodeLoop_nil (cfg : Config) (n : Nat) (x : List Record) : decodeLoop cfg n x [] = .ok x := by
  cases n <;> rfl

/-- Any fuel of at least the sequence's length answers the same. -/
theorem decodeLoop_fuel (cfg : Config) (n m : Nat) (x : List Record) (s : Bytes) (hn : s.length ≤ n) (hm : s.length ≤ m) :
    decodeLoop cfg n x s = decodeLoop cfg m x s := by
  induction n generalizing m x s with
  | zero =>
    obtain rfl : s = [] := List.length_eq_zero_iff.mp (by omega)
    simp
  | succ n ih =>
    by_cases hs : s = []
    · subst hs; simp
    · have : 0 < s.length := List.length_pos_iff.mpr hs
      obtain ⟨m, rfl⟩ : ∃ k, m = k + 1 := ⟨m - 1, by omega⟩
      rw [decodeLoop_succ cfg n x hs, decodeLoop_succ cfg m x hs]
      split
      · rfl
      · rename_i r rest hp
        split
        · rfl
        · have h2 := two_le_encodeRecord_length cfg r
          have hl : s.length = (encodeRecord cfg r).length + rest.length := by
            rw [(parseRecord_ok hp).2, List.length_append]
          exact ih m _ rest (by omega) (by omega)

/-- The loop over encoded fitting Records, with room for them, appends them and goes on with what follows (42_codec.md R205,
R208). -/
theorem decodeLoop_encodeStore {cfg : Config} (hc : cfg.tagCode.toList.Nodup) (ys : List Record) (hy : StoreFits ys)
    (n : Nat) (x : List Record) (rest : Bytes) (hn : ys.length ≤ n)
    (hroom : ∀ m ∈ cfg.storeMaxRecords, x.length + ys.length ≤ m) :
    decodeLoop cfg n x (encodeStore cfg ys ++ rest) = decodeLoop cfg (n - ys.length) (x ++ ys) rest := by
  induction ys generalizing n x with
  | nil => simp [encodeStore]
  | cons r ys ih =>
    obtain ⟨n, rfl⟩ : ∃ k, n = k + 1 := ⟨n - 1, by simp at hn; omega⟩
    have hne : encodeStore cfg (r :: ys) ++ rest ≠ [] := by
      rw [show encodeStore cfg (r :: ys) ++ rest = encodeRecord cfg r ++ (encodeStore cfg ys ++ rest) by simp [encodeStore],
        encodeRecord_eq]
      simp
    have hfull : storeIsFull cfg x = false := by
      rw [storeIsFull_eq_false]
      intro h
      have := hroom _ h
      simp at this
    rw [decodeLoop_succ cfg n x hne,
      show encodeStore cfg (r :: ys) ++ rest = encodeRecord cfg r ++ (encodeStore cfg ys ++ rest) by simp [encodeStore],
      parseRecord_encodeRecord hc (hy r (by simp))]
    simp only [appendRecord, hfull]
    rw [if_neg (by simp)]
    simp only
    rw [ih (fun q hq => hy q (by simp [hq])) n (x ++ [r]) (by simp at hn; omega)
      (fun m hm => by have := hroom m hm; simp at this ⊢; omega)]
    simp

/-- Everything the loop can answer when it succeeds: the Records appended fit, their encoding is the whole sequence, and the
store's bound is kept (42_codec.md R201, R209). -/
theorem decodeLoop_ok {cfg : Config} {n : Nat} {x y : List Record} {s : Bytes} (h : decodeLoop cfg n x s = .ok y) :
    ∃ ys, y = x ++ ys ∧ StoreFits ys ∧ s = encodeStore cfg ys ∧ (StoreInBounds cfg x → StoreInBounds cfg y) := by
  induction n generalizing x s with
  | zero =>
    cases s with
    | nil =>
      obtain rfl : x = y := by simpa using h
      exact ⟨[], by simp, fun _ hq => (nomatch hq), rfl, id⟩
    | cons b s => cases h
  | succ n ih =>
    by_cases hs : s = []
    · subst hs
      obtain rfl : x = y := by simpa using h
      exact ⟨[], by simp, fun _ hq => (nomatch hq), rfl, id⟩
    · rw [decodeLoop_succ cfg n x hs] at h
      split at h
      · cases h
      · rename_i r rest hp
        split at h
        · cases h
        · rename_i z hz
          obtain ⟨hfull, rfl⟩ := appendRecord_ok hz
          obtain ⟨hr, rfl⟩ := parseRecord_ok hp
          obtain ⟨ys, rfl, hys, rfl, hb⟩ := ih h
          refine ⟨r :: ys, by simp, ?_, by simp [encodeStore], fun hx => hb (storeInBounds_append hfull hx)⟩
          intro q hq
          obtain rfl | hq := List.mem_cons.mp hq
          · exact hr
          · exact hys q hq

/-- Everything the loop can answer when it fails: an unknown tag, a Record cut short, or no room (42_codec.md R201). -/
theorem decodeLoop_error {cfg : Config} {n : Nat} {x : List Record} {s : Bytes} {e : Status}
    (h : decodeLoop cfg n x s = .error e) : e = .unknownTag ∨ e = .decodeOutOfRange ∨ e = .storeFull := by
  induction n generalizing x s with
  | zero =>
    cases s with
    | nil => cases h
    | cons b s => right; left; cases h; rfl
  | succ n ih =>
    by_cases hs : s = []
    · subst hs; simp at h
    · rw [decodeLoop_succ cfg n x hs] at h
      split at h
      · rename_i d _
        cases h
        cases d <;> simp [decodeStatus]
      · split at h
        · rename_i r rest hp e' he
          cases h
          exact .inr (.inr (appendRecord_error he).2)
        · exact ih h

/-- Everything `DECODE` can do (42_codec.md R201, R206). -/
theorem decodeInto_cases (bytes : Bytes) (s : State) :
    (∃ y, decodePayload s.cfg bytes = .ok y ∧ StoreFits y ∧ StoreInBounds s.cfg y ∧ bytes = encodeStore s.cfg y ∧
        decodeInto bytes s = { s with x := y, out := .status .ok }) ∨
      ∃ e, decodePayload s.cfg bytes = .error e ∧ (e = .unknownTag ∨ e = .decodeOutOfRange ∨ e = .storeFull) ∧
        decodeInto bytes s = { s with x := [], out := .status e } := by
  cases h : decodePayload s.cfg bytes with
  | ok y =>
    obtain ⟨ys, hy, hfit, hs, hb⟩ := decodeLoop_ok h
    obtain rfl : y = ys := by simpa using hy
    refine .inl ⟨y, rfl, hfit, hb fun n _ => by simp, hs, ?_⟩
    simp only [decodeInto, h]
    rfl
  | error e =>
    refine .inr ⟨e, rfl, decodeLoop_error h, ?_⟩
    simp only [decodeInto, h]
    rfl

end Sys2Proof.Machine
end

