-- ==== Sys2Proof/Laws/Decode.lean ====
section
/-! SUPPORT. The host port's operands: what is put is what is taken. -/

namespace Sys2Proof.Machine

theorem takeSeq_putSeq (k rest : Bytes) : takeSeq (putSeq k ++ rest) = .ok (k, rest) := by
  induction k with
  | nil => cases rest <;> simp [putSeq, takeSeq]
  | cons b k ih => simp [putSeq, takeSeq, ih]

theorem takeNumber_beBytes (w u : Nat) (rest : Bytes) : takeNumber w (beBytes w u ++ rest) = .ok (u % 256 ^ w, rest) := by
  simp [takeNumber, beValue_beBytes]

/-- What is taken is what was put. -/
theorem takeSeq_ok {s k rest : Bytes} (h : takeSeq s = .ok (k, rest)) : s = putSeq k ++ rest := by
  induction s using takeSeq.induct generalizing k rest with
  | case1 => cases h
  | case2 =>
    simp only [takeSeq, if_true, Except.ok.injEq, Prod.mk.injEq] at h
    obtain ⟨rfl, rfl⟩ := h
    rfl
  | case3 m hm => simp [takeSeq, hm] at h
  | case4 b s =>
    simp only [takeSeq, if_true, Except.ok.injEq, Prod.mk.injEq] at h
    obtain ⟨rfl, rfl⟩ := h
    rfl
  | case5 b s hne ih =>
    simp only [takeSeq, hne, if_false, if_true] at h
    obtain ⟨k', s', h1, h2⟩ := then_eq_ok h
    simp only [Except.ok.injEq, Prod.mk.injEq] at h2
    obtain ⟨rfl, rfl⟩ := h2
    rw [ih h1]
    rfl
  | case6 m b s h1 h2 => simp [takeSeq, h1, h2] at h

theorem takeNumber_ok {w n : Nat} {s rest : Bytes} (h : takeNumber w s = .ok (n, rest)) :
    s = beBytes w n ++ rest ∧ n < 256 ^ w := by
  unfold takeNumber at h
  split at h
  · cases h
  · simp only [Except.ok.injEq, Prod.mk.injEq] at h
    obtain ⟨rfl, rfl⟩ := h
    have hl : (s.take w).reverse.length = w := by simp; omega
    have h1 := leBytes_leValue (s.take w).reverse
    have h2 := leValue_lt (s.take w).reverse
    rw [hl] at h1 h2
    exact ⟨by simp [beBytes, beValue, h1], h2⟩

end Sys2Proof.Machine
end

