-- ==== Sys2Proof/Laws/Transmit.lean ====
section
/-! SUPPORT. What the transmit path and the descriptor response can do. -/

namespace Sys2Proof.Machine

/-- Placeholders and backfills give the frame laid out by offsets (45_tx_and_host.md R271, 30_encoding.md R91). -/
theorem frameOf_eq_encodeFrame (cmd : Byte) (enc : Bytes) : frameOf cmd enc = encodeFrame cmd enc := by
  simp [frameOf, encodeFrame, memWriteHalf, Nat.add_comm 5]

theorem encodeFrame_length (cmd : Byte) (p : Bytes) : (encodeFrame cmd p).length = p.length + 8 := by
  simp [encodeFrame]

/-- A read of the time writes the time input and its course only (10_state.md R35). -/
theorem readTime_cases (s : State) : ∃ n ds, readTime s = { s with now := n, timeAdvance := ds } := by
  unfold readTime
  split
  · exact ⟨s.now, s.timeAdvance, rfl⟩
  · exact ⟨_, _, rfl⟩

/-- Everything the transmit path can do once the time is read (45_tx_and_host.md R270, R272). -/
theorem transmit_cases (cmd : Byte) (s : State) :
    windowActive s = true ∧ transmit cmd s = (.txSuppressed, s) ∨
      windowActive s = false ∧ payloadMax < (encodeStore s.cfg s.x).length ∧
        transmit cmd s = (.txTooLong, { s with suppress := false }) ∨
      windowActive s = false ∧ (encodeStore s.cfg s.x).length ≤ payloadMax ∧
        transmit cmd s = (.ok,
          { s with suppress := false, txLog := s.txLog ++ [encodeFrame cmd (encodeStore s.cfg s.x)] }) := by
  unfold transmit
  cases hw : windowActive s
  · simp only [Bool.false_eq_true, if_false, true_and, false_and, false_or]
    split
    · exact .inl ⟨‹_›, rfl⟩
    · rename_i h
      exact .inr ⟨by omega, by rw [frameOf_eq_encodeFrame]; rfl⟩
  · exact .inl ⟨rfl, by simp⟩

/-- Fitting Records with new, distinct keys are appended one by one (44_commands.md R251). -/
theorem foldl_putField {cfg : Config} (rs : List Record) (x : List Record) (hs : ∀ r ∈ rs, Settable r)
    (hk : (x.map Record.key ++ rs.map Record.key).Nodup) (hroom : ∀ m ∈ cfg.storeMaxRecords, x.length + rs.length ≤ m) :
    rs.foldl (putField cfg) x = x ++ rs := by
  induction rs generalizing x with
  | nil => simp
  | cons r rs ih =>
    have hnew : ∀ q ∈ x, q.key ≠ r.key := by
      intro q hq he
      rw [List.map_cons, List.nodup_append] at hk
      exact hk.2.2 q.key (List.mem_map_of_mem hq) r.key (by simp) he
    have hfull : storeIsFull cfg x = false := by
      rw [storeIsFull_eq_false]
      intro h
      have := hroom _ h
      simp at this
    have hput : putField cfg x r = x ++ [r] := by
      simp only [putField, storeSet_absent (hs r (by simp)) hnew, hfull]
      rfl
    rw [List.foldl_cons, hput, ih (x ++ [r]) (fun q hq => hs q (by simp [hq])) (by simpa using hk)
      (fun m hm => by have := hroom m hm; simp at this ⊢; omega)]
    simp

/-- In an allowed configuration none of the eight `SET`s can fail (44_commands.md R259 (d)). -/
theorem descriptorStore_eq {cfg : Config} {d : Descriptor} (hc : cfg.Wf) (hd : d.Wf) :
    descriptorStore cfg d = descriptorRecords cfg d := by
  obtain ⟨-, hnd, hlen, hmax, -⟩ := hc
  obtain ⟨hname, hinfo⟩ := hd
  rw [descriptorStore, foldl_putField _ _ ?_ ?_ ?_, List.nil_append]
  · simp only [InfoKeys.toList, List.mem_cons, List.not_mem_nil, or_false, forall_eq_or_imp, forall_eq] at hlen
    simp only [descriptorRecords, List.mem_cons, List.not_mem_nil, or_false, forall_eq_or_imp, forall_eq, Settable,
      reduceCtorEq, false_implies, and_true, true_implies, bytesStr]
    tauto
  · simpa [descriptorRecords, InfoKeys.toList] using hnd
  · intro m hm
    simpa [descriptorRecords] using hmax m hm

theorem descriptorRecords_fit {cfg : Config} {d : Descriptor} (hc : cfg.Wf) (hd : d.Wf) :
    StoreFits (descriptorRecords cfg d) := by
  obtain ⟨-, -, hlen, -, -⟩ := hc
  obtain ⟨hname, hinfo⟩ := hd
  simp only [InfoKeys.toList, List.mem_cons, List.not_mem_nil, or_false, forall_eq_or_imp, forall_eq] at hlen
  simp only [StoreFits, descriptorRecords, List.mem_cons, List.not_mem_nil, or_false, forall_eq_or_imp, forall_eq, recordFits,
    payloadFits, fixedWidth, bytesU16, bytesU32, bytesU8, bytesStr, ordBytes_length, List.length_cons, List.length_nil,
    beq_self_eq_true, Bool.and_eq_true, decide_eq_true_eq]
  tauto

/-- Everything a `GET_INFO` response can do: the store is overwritten, the rest is the transmit path's (44_commands.md
R251, R259). -/
theorem getInfoResponse_eq (s : State) :
    getInfoResponse s = (transmit cmdSendInfo (readTime { s with x := descriptorStore s.cfg s.desc })).2 := rfl

end Sys2Proof.Machine
end

