-- ==== Sys2Proof/Laws/Framer.lean ====
section
/-! SUPPORT. What a receive step can do to each part of the state. -/

namespace Sys2Proof.Machine

/-- Everything `SEND_DATA` can do (44_commands.md R253 to R255). -/
theorem onSendData_cases (p : Bytes) (s : State) :
    p = [] ∧ onSendData p s = answer (.raised .ok) (acceptFrame cmdSendData s) ∨
      (∃ y, p ≠ [] ∧ decodePayload s.cfg p = .ok y ∧
        onSendData p s =
          answer (.raised .ok) { acceptFrame cmdSendData s with x := y, dataAvailable := true, readFlag := false }) ∨
      ∃ e, p ≠ [] ∧ decodePayload s.cfg p = .error e ∧ onSendData p s = raiseRx e (acceptFrame cmdSendData s) := by
  cases p with
  | nil => exact .inl ⟨rfl, rfl⟩
  | cons b p =>
    refine .inr ?_
    simp only [onSendData]
    cases h : decodePayload s.cfg (b :: p) with
    | ok y => exact .inl ⟨y, by simp, rfl, rfl⟩
    | error e => exact .inr ⟨e, by simp, rfl, rfl⟩

/-- Everything `GET_INFO` can do (44_commands.md R251, R259): what it writes to the transport is at most one frame. -/
theorem onGetInfo_cases (s : State) :
    ∃ n ds f fs, onGetInfo s =
        { s with
          x := descriptorStore s.cfg s.desc, now := n, timeAdvance := ds, suppress := f, txLog := s.txLog ++ fs,
          rxLast := .packetComplete, lastCmd := cmdGetInfo, rxState := .idle, out := .raised .ok } ∧
      (fs = [] ∨ ∃ p, p.length ≤ payloadMax ∧ fs = [encodeFrame cmdSendInfo p]) := by
  obtain ⟨n, ds, hr⟩ := readTime_cases { acceptFrame cmdGetInfo s with x := descriptorStore s.cfg s.desc }
  have he : onGetInfo s = answer (.raised .ok) (transmit cmdSendInfo
      (readTime { acceptFrame cmdGetInfo s with x := descriptorStore s.cfg s.desc })).2 := rfl
  rw [hr] at he
  obtain ⟨-, h⟩ | ⟨-, -, h⟩ | ⟨-, hl, h⟩ := transmit_cases cmdSendInfo
    { { acceptFrame cmdGetInfo s with x := descriptorStore s.cfg s.desc } with now := n, timeAdvance := ds } <;> rw [h] at he
  · exact ⟨n, ds, s.suppress, [], by simp [he, answer, acceptFrame], .inl rfl⟩
  · exact ⟨n, ds, false, [], by simp [he, answer, acceptFrame], .inl rfl⟩
  · exact ⟨n, ds, false, _, by rw [he]; rfl, .inr ⟨_, hl, rfl⟩⟩

/-- Everything `STOP_DATA` can do (44_commands.md R252). -/
theorem onStopData_cases (s : State) :
    ∃ n ds, readTime s = { s with now := n, timeAdvance := ds } ∧
      onStopData s =
        { s with
          now := n, timeAdvance := ds, suppress := true, tStop := n,
          rxLast := .packetComplete, lastCmd := cmdStopData, rxState := .idle, out := .raised .ok } := by
  unfold onStopData startSuppression readTime
  rcases h : s.timeAdvance with _ | ⟨d, ds⟩
  · exact ⟨s.now, [], by simp [← h], by simp [acceptFrame, answer, h]⟩
  · exact ⟨_, _, rfl, by simp [acceptFrame, answer, h]⟩

/-- Which command a good frame runs (44_commands.md R250). -/
theorem dispatch_cases (c : Byte) (p : Bytes) (s : State) :
    c = cmdGetInfo ∧ dispatch c p s = onGetInfo s ∨
      c = cmdStopData ∧ dispatch c p s = onStopData s ∨
      c = cmdSendData ∧ dispatch c p s = onSendData p s ∨
      (c ≠ cmdGetInfo ∧ c ≠ cmdStopData ∧ c ≠ cmdSendData) ∧ dispatch c p s = onIgnored c s := by
  unfold dispatch
  split
  · exact .inl ⟨‹_›, rfl⟩
  · split
    · exact .inr (.inl ⟨‹_›, rfl⟩)
    · split
      · exact .inr (.inr (.inl ⟨‹_›, rfl⟩))
      · exact .inr (.inr (.inr ⟨⟨‹_›, ‹_›, ‹_›⟩, rfl⟩))

/-- The verdict's three outcomes, in the order of the tests (43_rx_framer.md R230 to R233). -/
theorem rxWaitTerm_cases (b : Byte) (s : State) :
    crc s.rxBuf ≠ s.rxChk ∧ rxWaitTerm b s = raiseRx .checksumMismatch s ∨
      crc s.rxBuf = s.rxChk ∧ b ≠ terminatorMarker ∧ rxWaitTerm b s = raiseRx .terminatorMismatch s ∨
      crc s.rxBuf = s.rxChk ∧ b = terminatorMarker ∧ rxWaitTerm b s = dispatch s.curCmd s.rxBuf s := by
  unfold rxWaitTerm
  split
  · exact .inl ⟨‹_›, rfl⟩
  · rename_i h
    split
    · exact .inr (.inl ⟨not_not.mp h, ‹_›, rfl⟩)
    · rename_i hb
      exact .inr (.inr ⟨not_not.mp h, not_not.mp hb, rfl⟩)

/-! ### Parts that no receive step writes: parameters, descriptor, pending bytes, the agents' plans -/

@[simp] theorem transmit_cfg (c : Byte) (s : State) : ((transmit c s).2).cfg = s.cfg := by
  obtain ⟨-, h⟩ | ⟨-, -, h⟩ | ⟨-, -, h⟩ := transmit_cases c s <;> rw [h]

@[simp] theorem transmit_desc (c : Byte) (s : State) : ((transmit c s).2).desc = s.desc := by
  obtain ⟨-, h⟩ | ⟨-, -, h⟩ | ⟨-, -, h⟩ := transmit_cases c s <;> rw [h]

@[simp] theorem transmit_rxFifo (c : Byte) (s : State) : ((transmit c s).2).rxFifo = s.rxFifo := by
  obtain ⟨-, h⟩ | ⟨-, -, h⟩ | ⟨-, -, h⟩ := transmit_cases c s <;> rw [h]

@[simp] theorem transmit_turns (c : Byte) (s : State) : ((transmit c s).2).turns = s.turns := by
  obtain ⟨-, h⟩ | ⟨-, -, h⟩ | ⟨-, -, h⟩ := transmit_cases c s <;> rw [h]

@[simp] theorem transmit_hostPort (c : Byte) (s : State) : ((transmit c s).2).hostPort = s.hostPort := by
  obtain ⟨-, h⟩ | ⟨-, -, h⟩ | ⟨-, -, h⟩ := transmit_cases c s <;> rw [h]

@[simp] theorem transmit_x (c : Byte) (s : State) : ((transmit c s).2).x = s.x := by
  obtain ⟨-, h⟩ | ⟨-, -, h⟩ | ⟨-, -, h⟩ := transmit_cases c s <;> rw [h]

@[simp] theorem transmit_rxState (c : Byte) (s : State) : ((transmit c s).2).rxState = s.rxState := by
  obtain ⟨-, h⟩ | ⟨-, -, h⟩ | ⟨-, -, h⟩ := transmit_cases c s <;> rw [h]

@[simp] theorem transmit_rxLen (c : Byte) (s : State) : ((transmit c s).2).rxLen = s.rxLen := by
  obtain ⟨-, h⟩ | ⟨-, -, h⟩ | ⟨-, -, h⟩ := transmit_cases c s <;> rw [h]

@[simp] theorem transmit_curCmd (c : Byte) (s : State) : ((transmit c s).2).curCmd = s.curCmd := by
  obtain ⟨-, h⟩ | ⟨-, -, h⟩ | ⟨-, -, h⟩ := transmit_cases c s <;> rw [h]

@[simp] theorem transmit_rxBuf (c : Byte) (s : State) : ((transmit c s).2).rxBuf = s.rxBuf := by
  obtain ⟨-, h⟩ | ⟨-, -, h⟩ | ⟨-, -, h⟩ := transmit_cases c s <;> rw [h]

@[simp] theorem transmit_rxChk (c : Byte) (s : State) : ((transmit c s).2).rxChk = s.rxChk := by
  obtain ⟨-, h⟩ | ⟨-, -, h⟩ | ⟨-, -, h⟩ := transmit_cases c s <;> rw [h]

@[simp] theorem transmit_dataAvailable (c : Byte) (s : State) : ((transmit c s).2).dataAvailable = s.dataAvailable := by
  obtain ⟨-, h⟩ | ⟨-, -, h⟩ | ⟨-, -, h⟩ := transmit_cases c s <;> rw [h]

@[simp] theorem transmit_readFlag (c : Byte) (s : State) : ((transmit c s).2).readFlag = s.readFlag := by
  obtain ⟨-, h⟩ | ⟨-, -, h⟩ | ⟨-, -, h⟩ := transmit_cases c s <;> rw [h]

@[simp] theorem transmit_err (c : Byte) (s : State) : ((transmit c s).2).err = s.err := by
  obtain ⟨-, h⟩ | ⟨-, -, h⟩ | ⟨-, -, h⟩ := transmit_cases c s <;> rw [h]

@[simp] theorem transmit_tStop (c : Byte) (s : State) : ((transmit c s).2).tStop = s.tStop := by
  obtain ⟨-, h⟩ | ⟨-, -, h⟩ | ⟨-, -, h⟩ := transmit_cases c s <;> rw [h]

@[simp] theorem transmit_rxLast (c : Byte) (s : State) : ((transmit c s).2).rxLast = s.rxLast := by
  obtain ⟨-, h⟩ | ⟨-, -, h⟩ | ⟨-, -, h⟩ := transmit_cases c s <;> rw [h]

@[simp] theorem transmit_lastCmd (c : Byte) (s : State) : ((transmit c s).2).lastCmd = s.lastCmd := by
  obtain ⟨-, h⟩ | ⟨-, -, h⟩ | ⟨-, -, h⟩ := transmit_cases c s <;> rw [h]

@[simp] theorem transmit_now (c : Byte) (s : State) : ((transmit c s).2).now = s.now := by
  obtain ⟨-, h⟩ | ⟨-, -, h⟩ | ⟨-, -, h⟩ := transmit_cases c s <;> rw [h]

@[simp] theorem transmit_timeAdvance (c : Byte) (s : State) : ((transmit c s).2).timeAdvance = s.timeAdvance := by
  obtain ⟨-, h⟩ | ⟨-, -, h⟩ | ⟨-, -, h⟩ := transmit_cases c s <;> rw [h]

@[simp] theorem transmit_out (c : Byte) (s : State) : ((transmit c s).2).out = s.out := by
  obtain ⟨-, h⟩ | ⟨-, -, h⟩ | ⟨-, -, h⟩ := transmit_cases c s <;> rw [h]

@[simp] theorem onGetInfo_cfg (s : State) : (onGetInfo s).cfg = s.cfg := by
  simp [onGetInfo, getInfoResponse]

@[simp] theorem onGetInfo_desc (s : State) : (onGetInfo s).desc = s.desc := by
  simp [onGetInfo, getInfoResponse]

@[simp] theorem onGetInfo_rxFifo (s : State) : (onGetInfo s).rxFifo = s.rxFifo := by
  simp [onGetInfo, getInfoResponse]

@[simp] theorem onGetInfo_turns (s : State) : (onGetInfo s).turns = s.turns := by
  simp [onGetInfo, getInfoResponse]

@[simp] theorem onGetInfo_hostPort (s : State) : (onGetInfo s).hostPort = s.hostPort := by
  simp [onGetInfo, getInfoResponse]

@[simp] theorem onStopData_cfg (s : State) : (onStopData s).cfg = s.cfg := by
  simp [onStopData, startSuppression]

@[simp] theorem onStopData_desc (s : State) : (onStopData s).desc = s.desc := by
  simp [onStopData, startSuppression]

@[simp] theorem onStopData_rxFifo (s : State) : (onStopData s).rxFifo = s.rxFifo := by
  simp [onStopData, startSuppression]

@[simp] theorem onStopData_turns (s : State) : (onStopData s).turns = s.turns := by
  simp [onStopData, startSuppression]

@[simp] theorem onStopData_hostPort (s : State) : (onStopData s).hostPort = s.hostPort := by
  simp [onStopData, startSuppression]

@[simp] theorem onSendData_cfg (p : Bytes) (s : State) : (onSendData p s).cfg = s.cfg := by
  obtain ⟨-, h⟩ | ⟨y, -, -, h⟩ | ⟨e, -, -, h⟩ := onSendData_cases p s <;> simp [h, raiseRx]

@[simp] theorem onSendData_desc (p : Bytes) (s : State) : (onSendData p s).desc = s.desc := by
  obtain ⟨-, h⟩ | ⟨y, -, -, h⟩ | ⟨e, -, -, h⟩ := onSendData_cases p s <;> simp [h, raiseRx]

@[simp] theorem onSendData_rxFifo (p : Bytes) (s : State) : (onSendData p s).rxFifo = s.rxFifo := by
  obtain ⟨-, h⟩ | ⟨y, -, -, h⟩ | ⟨e, -, -, h⟩ := onSendData_cases p s <;> simp [h, raiseRx]

@[simp] theorem onSendData_turns (p : Bytes) (s : State) : (onSendData p s).turns = s.turns := by
  obtain ⟨-, h⟩ | ⟨y, -, -, h⟩ | ⟨e, -, -, h⟩ := onSendData_cases p s <;> simp [h, raiseRx]

@[simp] theorem onSendData_hostPort (p : Bytes) (s : State) : (onSendData p s).hostPort = s.hostPort := by
  obtain ⟨-, h⟩ | ⟨y, -, -, h⟩ | ⟨e, -, -, h⟩ := onSendData_cases p s <;> simp [h, raiseRx]

@[simp] theorem dispatch_cfg (c : Byte) (p : Bytes) (s : State) : (dispatch c p s).cfg = s.cfg := by
  obtain ⟨-, h⟩ | ⟨-, h⟩ | ⟨-, h⟩ | ⟨-, h⟩ := dispatch_cases c p s <;> simp [h, onIgnored]

@[simp] theorem dispatch_desc (c : Byte) (p : Bytes) (s : State) : (dispatch c p s).desc = s.desc := by
  obtain ⟨-, h⟩ | ⟨-, h⟩ | ⟨-, h⟩ | ⟨-, h⟩ := dispatch_cases c p s <;> simp [h, onIgnored]

@[simp] theorem dispatch_rxFifo (c : Byte) (p : Bytes) (s : State) : (dispatch c p s).rxFifo = s.rxFifo := by
  obtain ⟨-, h⟩ | ⟨-, h⟩ | ⟨-, h⟩ | ⟨-, h⟩ := dispatch_cases c p s <;> simp [h, onIgnored]

@[simp] theorem dispatch_turns (c : Byte) (p : Bytes) (s : State) : (dispatch c p s).turns = s.turns := by
  obtain ⟨-, h⟩ | ⟨-, h⟩ | ⟨-, h⟩ | ⟨-, h⟩ := dispatch_cases c p s <;> simp [h, onIgnored]

@[simp] theorem dispatch_hostPort (c : Byte) (p : Bytes) (s : State) : (dispatch c p s).hostPort = s.hostPort := by
  obtain ⟨-, h⟩ | ⟨-, h⟩ | ⟨-, h⟩ | ⟨-, h⟩ := dispatch_cases c p s <;> simp [h, onIgnored]

@[simp] theorem rxByte_cfg (b : Byte) (s : State) : (rxByte b s).cfg = s.cfg := by
  unfold rxByte
  split <;> simp only [rxIdle, rxSawHeader, rxSawPktid, rxWaitLenLo, rxWaitCmd, rxWaitPayload, rxWaitChkHi, rxWaitChkLo, rxWaitTerm] <;>
    (try split) <;> (try split) <;> simp [raiseRx]

@[simp] theorem rxByte_desc (b : Byte) (s : State) : (rxByte b s).desc = s.desc := by
  unfold rxByte
  split <;> simp only [rxIdle, rxSawHeader, rxSawPktid, rxWaitLenLo, rxWaitCmd, rxWaitPayload, rxWaitChkHi, rxWaitChkLo, rxWaitTerm] <;>
    (try split) <;> (try split) <;> simp [raiseRx]

@[simp] theorem rxByte_rxFifo (b : Byte) (s : State) : (rxByte b s).rxFifo = s.rxFifo := by
  unfold rxByte
  split <;> simp only [rxIdle, rxSawHeader, rxSawPktid, rxWaitLenLo, rxWaitCmd, rxWaitPayload, rxWaitChkHi, rxWaitChkLo, rxWaitTerm] <;>
    (try split) <;> (try split) <;> simp [raiseRx]

@[simp] theorem rxByte_turns (b : Byte) (s : State) : (rxByte b s).turns = s.turns := by
  unfold rxByte
  split <;> simp only [rxIdle, rxSawHeader, rxSawPktid, rxWaitLenLo, rxWaitCmd, rxWaitPayload, rxWaitChkHi, rxWaitChkLo, rxWaitTerm] <;>
    (try split) <;> (try split) <;> simp [raiseRx]

@[simp] theorem rxByte_hostPort (b : Byte) (s : State) : (rxByte b s).hostPort = s.hostPort := by
  unfold rxByte
  split <;> simp only [rxIdle, rxSawHeader, rxSawPktid, rxWaitLenLo, rxWaitCmd, rxWaitPayload, rxWaitChkHi, rxWaitChkLo, rxWaitTerm] <;>
    (try split) <;> (try split) <;> simp [raiseRx]

end Sys2Proof.Machine
end

