-- ==== Sys2Proof/Laws/PerInstr.lean ====
section
/-! SUPPORT. Families of facts about instructions as syntax, one lemma for each constructor of `Instr`. -/

namespace Sys2Proof.Laws

open Machine

namespace HeadByte

/-- The byte that an instruction's encoding begins with in its own space: the header marker (30_encoding.md R91), the tag's
code (R99), the selection code (R106), the received byte. -/
def headByte (cfg : Config) (i : Instr) : Option Byte :=
  match i with
  | .getInfo _ => some headerMarker
  | .sendData _ => some headerMarker
  | .sendInfo _ => some headerMarker
  | .stopData _ => some headerMarker
  | .other _ _ => some headerMarker
  | .recI8 _ _ => some cfg.tagCode.i8
  | .recU8 _ _ => some cfg.tagCode.u8
  | .recI16 _ _ => some cfg.tagCode.i16
  | .recU16 _ _ => some cfg.tagCode.u16
  | .recI32 _ _ => some cfg.tagCode.i32
  | .recU32 _ _ => some cfg.tagCode.u32
  | .recF32 _ _ => some cfg.tagCode.f32
  | .recF64 _ _ => some cfg.tagCode.f64
  | .recStr _ _ => some cfg.tagCode.str
  | .setI8 _ _ => some 0x00#8
  | .setU8 _ _ => some 0x01#8
  | .setI16 _ _ => some 0x02#8
  | .setU16 _ _ => some 0x03#8
  | .setI32 _ _ => some 0x04#8
  | .setU32 _ _ => some 0x05#8
  | .setF32 _ _ => some 0x06#8
  | .setF64 _ _ => some 0x07#8
  | .setStr _ _ => some 0x08#8
  | .getI8 _ => some 0x10#8
  | .getU8 _ => some 0x11#8
  | .getI16 _ => some 0x12#8
  | .getU16 _ => some 0x13#8
  | .getI32 _ => some 0x14#8
  | .getU32 _ => some 0x15#8
  | .getF32 _ => some 0x16#8
  | .getF64 _ => some 0x17#8
  | .getStr _ => some 0x18#8
  | .find _ => some 0x20#8
  | .clear => some 0x21#8
  | .encode => some 0x22#8
  | .decode _ => some 0x23#8
  | .crcCalc _ _ _ => some 0x30#8
  | .poll => some 0x40#8
  | .send _ => some 0x41#8
  | .available => some 0x42#8
  | .statusRead => some 0x43#8
  | .errClear => some 0x44#8
  | .descSet0 _ => some 0x50#8
  | .descSet1 _ => some 0x51#8
  | .descSet2 _ => some 0x52#8
  | .descSet3 _ => some 0x53#8
  | .descSet4 _ => some 0x54#8
  | .descSet5 _ => some 0x55#8
  | .descSet6 _ => some 0x56#8
  | .descSet7 _ => some 0x57#8
  | .descGet0 => some 0x60#8
  | .descGet1 => some 0x61#8
  | .descGet2 => some 0x62#8
  | .descGet3 => some 0x63#8
  | .descGet4 => some 0x64#8
  | .descGet5 => some 0x65#8
  | .descGet6 => some 0x66#8
  | .descGet7 => some 0x67#8
  | .rxByte b => some b
  | .rxEmpty => none

/-- The encoding begins with the instruction's head byte. -/
def Statement (i : Instr) : Prop := ∀ cfg : Config, (Sys2Proof.encode cfg i).head? = headByte cfg i

theorem getInfo (payload : Bytes) : Statement (.getInfo payload) := fun _ => rfl
theorem sendData (payload : Bytes) : Statement (.sendData payload) := fun _ => rfl
theorem sendInfo (payload : Bytes) : Statement (.sendInfo payload) := fun _ => rfl
theorem stopData (payload : Bytes) : Statement (.stopData payload) := fun _ => rfl
theorem other (cmd : Byte) (payload : Bytes) : Statement (.other cmd payload) := fun _ => rfl
theorem recI8 (key : Bytes) (payload : Bytes) : Statement (.recI8 key payload) := fun _ => rfl
theorem recU8 (key : Bytes) (payload : Bytes) : Statement (.recU8 key payload) := fun _ => rfl
theorem recI16 (key : Bytes) (payload : Bytes) : Statement (.recI16 key payload) := fun _ => rfl
theorem recU16 (key : Bytes) (payload : Bytes) : Statement (.recU16 key payload) := fun _ => rfl
theorem recI32 (key : Bytes) (payload : Bytes) : Statement (.recI32 key payload) := fun _ => rfl
theorem recU32 (key : Bytes) (payload : Bytes) : Statement (.recU32 key payload) := fun _ => rfl
theorem recF32 (key : Bytes) (payload : Bytes) : Statement (.recF32 key payload) := fun _ => rfl
theorem recF64 (key : Bytes) (payload : Bytes) : Statement (.recF64 key payload) := fun _ => rfl
theorem recStr (key : Bytes) (payload : Bytes) : Statement (.recStr key payload) := fun _ => rfl
theorem setI8 (key : Bytes) (v : BitVec 8) : Statement (.setI8 key v) := fun _ => rfl
theorem setU8 (key : Bytes) (v : BitVec 8) : Statement (.setU8 key v) := fun _ => rfl
theorem setI16 (key : Bytes) (v : BitVec 16) : Statement (.setI16 key v) := fun _ => rfl
theorem setU16 (key : Bytes) (v : BitVec 16) : Statement (.setU16 key v) := fun _ => rfl
theorem setI32 (key : Bytes) (v : BitVec 32) : Statement (.setI32 key v) := fun _ => rfl
theorem setU32 (key : Bytes) (v : BitVec 32) : Statement (.setU32 key v) := fun _ => rfl
theorem setF32 (key : Bytes) (v : BitVec 32) : Statement (.setF32 key v) := fun _ => rfl
theorem setF64 (key : Bytes) (v : BitVec 64) : Statement (.setF64 key v) := fun _ => rfl
theorem setStr (key : Bytes) (v : Bytes) : Statement (.setStr key v) := fun _ => rfl
theorem getI8 (key : Bytes) : Statement (.getI8 key) := fun _ => rfl
theorem getU8 (key : Bytes) : Statement (.getU8 key) := fun _ => rfl
theorem getI16 (key : Bytes) : Statement (.getI16 key) := fun _ => rfl
theorem getU16 (key : Bytes) : Statement (.getU16 key) := fun _ => rfl
theorem getI32 (key : Bytes) : Statement (.getI32 key) := fun _ => rfl
theorem getU32 (key : Bytes) : Statement (.getU32 key) := fun _ => rfl
theorem getF32 (key : Bytes) : Statement (.getF32 key) := fun _ => rfl
theorem getF64 (key : Bytes) : Statement (.getF64 key) := fun _ => rfl
theorem getStr (key : Bytes) : Statement (.getStr key) := fun _ => rfl
theorem find (key : Bytes) : Statement (.find key) := fun _ => rfl
theorem clear : Statement (.clear) := fun _ => rfl
theorem encode : Statement (.encode) := fun _ => rfl
theorem decode (bytes : Bytes) : Statement (.decode bytes) := fun _ => rfl
theorem crcCalc (bytes : Bytes) (start : Nat) (stop : Nat) : Statement (.crcCalc bytes start stop) := fun _ => rfl
theorem poll : Statement (.poll) := fun _ => rfl
theorem send (cmd : Byte) : Statement (.send cmd) := fun _ => rfl
theorem available : Statement (.available) := fun _ => rfl
theorem statusRead : Statement (.statusRead) := fun _ => rfl
theorem errClear : Statement (.errClear) := fun _ => rfl
theorem descSet0 (v : BitVec 16) : Statement (.descSet0 v) := fun _ => rfl
theorem descSet1 (v : BitVec 16) : Statement (.descSet1 v) := fun _ => rfl
theorem descSet2 (v : BitVec 32) : Statement (.descSet2 v) := fun _ => rfl
theorem descSet3 (v : BitVec 8) : Statement (.descSet3 v) := fun _ => rfl
theorem descSet4 (v : BitVec 8) : Statement (.descSet4 v) := fun _ => rfl
theorem descSet5 (v : BitVec 8) : Statement (.descSet5 v) := fun _ => rfl
theorem descSet6 (v : Bytes) : Statement (.descSet6 v) := fun _ => rfl
theorem descSet7 (v : Bytes) : Statement (.descSet7 v) := fun _ => rfl
theorem descGet0 : Statement (.descGet0) := fun _ => rfl
theorem descGet1 : Statement (.descGet1) := fun _ => rfl
theorem descGet2 : Statement (.descGet2) := fun _ => rfl
theorem descGet3 : Statement (.descGet3) := fun _ => rfl
theorem descGet4 : Statement (.descGet4) := fun _ => rfl
theorem descGet5 : Statement (.descGet5) := fun _ => rfl
theorem descGet6 : Statement (.descGet6) := fun _ => rfl
theorem descGet7 : Statement (.descGet7) := fun _ => rfl
theorem rxByte (b : Byte) : Statement (.rxByte b) := fun _ => rfl
theorem rxEmpty : Statement (.rxEmpty) := fun _ => rfl

end HeadByte

end Sys2Proof.Laws
end

