-- ==== Sys2Proof/Laws/Spec.lean ====
section
/-! SUPPORT. The spec's formulas of Safety.lean against the machine's own: Records, payload bytes, values, the SETs and GETs,
the dispatch. -/

namespace Sys2Proof.Machine

theorem specRecord_eq (cfg : Config) (r : Record) : specRecord cfg r = encodeRecord cfg r := by
  obtain ⟨t, k, p⟩ := r
  cases t <;> simp [specRecord, encodeRecord]

theorem flatMap_specRecord (cfg : Config) (x : List Record) : x.flatMap (specRecord cfg) = encodeStore cfg x := by
  unfold encodeStore
  congr 1
  funext r
  exact specRecord_eq cfg r

theorem leBytes_eq_map (w u : Nat) : leBytes w u = (List.range w).map fun i => BitVec.ofNat 8 (u >>> (8 * i)) := by
  induction w generalizing u with
  | zero => rfl
  | succ w ih =>
    rw [leBytes, ih, List.range_succ_eq_map]
    simp only [List.map_cons, List.map_map, Nat.mul_zero, Nat.shiftRight_zero, List.cons.injEq, true_and]
    apply List.map_congr_left
    intro i _
    simp only [Function.comp_apply, Nat.succ_eq_add_one]
    rw [show 8 * (i + 1) = 8 + 8 * i by ring, Nat.shiftRight_add, Nat.shiftRight_eq_div_pow u 8]

/-- Slices of a pattern are the bytes of its number (41_record_store.md R159). -/
theorem sliceBytes_eq (o : ByteOrder) {n : Nat} (w : Nat) (v : BitVec n) : sliceBytes o w v = ordBytes o w v.toNat := by
  have h : (List.range w).map (fun i => v.extractLsb' (8 * i) 8) = leBytes w v.toNat := by
    rw [leBytes_eq_map]
    apply List.map_congr_left
    intro i _
    apply BitVec.eq_of_toNat_eq
    simp
  cases o <;> simp [sliceBytes, ordBytes, beBytes, h]

theorem weighBytes_eq (o : ByteOrder) (p : Bytes) : weighBytes o p = ordValue o p := by
  have h : ∀ p : Bytes, p.foldr (fun (b : Byte) (n : Nat) => b.toNat + 256 * n) 0 = leValue p := by
    intro p
    induction p with
    | nil => rfl
    | cons b p ih => simp [leValue, ih]
  cases o <;> simp [weighBytes, ordValue, beValue, h]

/-- A `SET` is the shared operation on the Record that its rule gives. -/
theorem exec_of_setRecord {i : Instr} {r : Record} {s : State} (h : setRecord s.cfg.valueOrder i = some r) :
    exec i s = .next (setField r s) := by
  cases i <;> simp only [setRecord, Option.some.injEq, reduceCtorEq] at h <;> subst h <;>
    simp [exec, execSetI8, execSetU8, execSetI16, execSetU16, execSetI32, execSetU32, execSetF32, execSetF64, execSetStr,
      bytesI8, bytesU8, bytesI16, bytesU16, bytesI32, bytesU32, bytesF32, bytesF64, bytesStr, sliceBytes_eq]

theorem exec_getInstr (t : Tag) (k : Bytes) (s : State) : exec (getInstr t k) s = .next (getField t k s) := by
  cases t <;> rfl

theorem exec_decode (b : Bytes) (s : State) : exec (.decode b) s = .next (decodeInto b s) := rfl

/-- The command of a good frame and the wire command of the same byte do the same (44_commands.md R250). -/
theorem exec_wireInstr (c : Byte) (p : Bytes) (s : State) : exec (wireInstr c p) s = .next (dispatch c p s) := by
  unfold wireInstr dispatch
  by_cases h1 : c = cmdGetInfo
  · subst h1; rfl
  · by_cases h2 : c = cmdSendData
    · subst h2; rfl
    · by_cases h3 : c = cmdSendInfo
      · subst h3; rfl
      · by_cases h4 : c = cmdStopData
        · subst h4; rfl
        · simp only [h1, h2, h3, h4, if_false]; rfl

/-- `DECODE` of fitting Records' encodings, with room for them, goes on with what follows. -/
theorem decodePayload_encodeStore {cfg : Config} (hc : cfg.tagCode.toList.Nodup) {ys : List Record} (hy : StoreFits ys)
    (hb : StoreInBounds cfg ys) (rest : Bytes) :
    decodePayload cfg (encodeStore cfg ys ++ rest) = decodeLoop cfg rest.length ys rest := by
  have hl : ∀ ys : List Record, ys.length ≤ (encodeStore cfg ys).length := by
    intro ys
    induction ys with
    | nil => simp
    | cons r ys ih =>
      have := two_le_encodeRecord_length cfg r
      simp only [encodeStore, List.flatMap_cons, List.length_append, List.length_cons] at *
      omega
  have hn := hl ys
  rw [decodePayload, decodeLoop_encodeStore hc ys hy _ [] rest (by rw [List.length_append]; omega)
    (fun m hm => by simpa using hb m hm)]
  exact decodeLoop_fuel _ _ _ _ _ (by rw [List.length_append]; omega) (Nat.le_refl _)

end Sys2Proof.Machine
end

