-- ==== Sys2Proof/Laws/Step.lean ====
section
/-! SUPPORT. What a step can do: one inversion lemma, from which facts about every step follow. -/

namespace Sys2Proof.Machine

theorem fetch_of_wf {s : State} (h : s.cfg.Wf) :
    fetch s = match s.turns with | [] => .moved s | t :: ts => fetchTurn t { s with turns := ts } := by
  unfold fetch
  exact if_pos h

theorem step_of_not_wf {s : State} (h : ¬ s.cfg.Wf) : step s = .refused .badConfiguration := by
  unfold step fetch
  rw [if_neg h]

/-- Everything a step that answers a next state can have done, by whose turn it was (log 1). -/
theorem step_cases {s t : State} (h : step s = .next t) :
    s.cfg.Wf ∧
      (s.turns = [] ∧ t = s ∨
        (∃ ts, s.turns = .host :: ts ∧
          (s.hostPort = [] ∧ t = { s with turns := ts, out := .silent } ∨
            ∃ i rest, s.hostPort ≠ [] ∧ decode s.cfg .hostOp s.hostPort = .ok (i, rest) ∧
              exec i { s with turns := ts, hostPort := rest } = .next t)) ∨
        (∃ ts, s.turns = .receive :: ts ∧
          (s.rxFifo = [] ∧ t = rxEmpty { s with turns := ts } ∨
            ∃ b q, s.rxFifo = b :: q ∧ t = rxByte b { s with turns := ts, rxFifo := q })) ∨
        (∃ bytes ts, s.turns = .link bytes :: ts ∧
          t = { s with turns := ts, rxFifo := s.rxFifo ++ bytes, out := .silent }) ∨
        ∃ ts, s.turns = .reset :: ts ∧ t = resetBlock { s with turns := ts }) := by
  by_cases hw : s.cfg.Wf
  swap
  · rw [step_of_not_wf hw] at h; cases h
  refine ⟨hw, ?_⟩
  unfold step at h
  rw [fetch_of_wf hw] at h
  cases ht : s.turns with
  | nil =>
    simp only [ht] at h
    exact .inl ⟨rfl, by cases h; rfl⟩
  | cons u ts =>
    simp only [ht] at h
    refine .inr ?_
    cases u with
    | host =>
      refine .inl ⟨ts, rfl, ?_⟩
      simp only [fetchTurn, fetchHost] at h
      cases hp : s.hostPort with
      | nil =>
        simp only [hp] at h
        cases h
        exact .inl ⟨rfl, rfl⟩
      | cons b port =>
        simp only [hp] at h
        cases hd : decode s.cfg .hostOp (b :: port) with
        | error e => simp only [hd] at h; cases h
        | ok p =>
          obtain ⟨i, rest⟩ := p
          simp only [hd] at h
          exact .inr ⟨i, rest, by simp, rfl, h⟩
    | receive =>
      refine .inr (.inl ⟨ts, rfl, ?_⟩)
      simp only [fetchTurn, fetchReceive, decode, decodeRx] at h
      cases hq : s.rxFifo with
      | nil =>
        simp only [hq] at h
        refine .inl ⟨rfl, ?_⟩
        cases h
        cases s; simp_all
      | cons b q =>
        simp only [hq] at h
        cases h
        exact .inr ⟨b, q, rfl, rfl⟩
    | link bytes =>
      cases h
      exact .inr (.inr (.inl ⟨bytes, ts, rfl, rfl⟩))
    | reset =>
      cases h
      exact .inr (.inr (.inr ⟨ts, rfl, rfl⟩))

end Sys2Proof.Machine
end

