-- ==== Sys2Proof/Tests/Slice0.lean ====
section
/-! SUPPORT. The model's own tests: refusals of ill-formed terms, decodings of words written out from the spec's
  encodings,
one-step checks whose expected results are the vectors of 95_test_vectors.md (V10 to V78), and for every statement with
hypotheses a witness that meets them. -/

set_option maxRecDepth 20000

namespace Sys2Proof.Tests

open Sys2Proof.Machine

/-- Bytes from numbers. -/
def hex (l : List Nat) : Bytes := l.map (BitVec.ofNat 8)

/-- One field of a meaning's next state. -/
def after {α : Type} (f : State → α) (m : Meaning) : Option α :=
  match m with
  | .next t => some (f t)
  | .fault _ => none
  | .refused _ => none

/-- The reset state with a store. -/
def holding (x : List Record) : State := { State.reset with x := x }

/-- The reset state with a bounded store. -/
def bounded (n : Nat) (x : List Record) : State :=
  { holding x with cfg := { Config.standard with storeMaxRecords := some n } }

/-- The reset state under `VALUE_ORDER = big`. -/
def bigEndian (x : List Record) : State := { holding x with cfg := { Config.standard with valueOrder := .big } }

/-- The reset state with a small receive buffer. -/
def capacity (n : Nat) (st : RxState) (len : Half) (buf : Bytes) (chk : Half) : State :=
  { State.reset with
    cfg := { Config.standard with rxMaxPayload := n }, rxState := st, rxLen := len, rxBuf := buf, rxChk := chk }

/-- The start stores of V22, V43 and V20. -/
def abc : List Record :=
  [⟨.u8, hex [0x61], hex [0x01]⟩, ⟨.u8, hex [0x62], hex [0x02]⟩, ⟨.u8, hex [0x63], hex [0x03]⟩]

def a7 : List Record := [⟨.u8, hex [0x61], hex [0x07]⟩]

def v20 : List Record :=
  [⟨.i8, hex [0x61], hex [0xFE]⟩, ⟨.u8, hex [0x62], hex [0xC8]⟩, ⟨.i16, hex [0x63], hex [0xD4, 0xFE]⟩,
    ⟨.u16, hex [0x64], hex [0xEF, 0xBE]⟩, ⟨.i32, hex [0x65], hex [0xFE, 0xFF, 0xFF, 0xFF]⟩,
    ⟨.u32, hex [0x66], hex [0xEF, 0xBE, 0xAD, 0xDE]⟩, ⟨.f32, hex [0x67], hex [0x00, 0x00, 0x80, 0x3F]⟩,
    ⟨.f64, hex [0x68], hex [0x00, 0x00, 0x00, 0x00, 0x00, 0x00, 0x04, 0xC0]⟩, ⟨.str, hex [0x73], hex [0x68, 0x69]⟩]

/-! ### Well-formedness: an ill-formed term for each check, and the greatest well-formed one -/

/-- 30_encoding.md R92. -/
theorem test_wf_payload_within_frame :
    wellFormed .standard (.getInfo (List.replicate 65532 0x00#8)) = false ∧
      wellFormed .standard (.sendData (List.replicate 65531 0x00#8)) = true := by
  simp [wellFormed, payloadWf, Config.standard, -List.reduceReplicate]

/-- 43_rx_framer.md R225. -/
theorem test_wf_payload_within_buffer :
    wellFormed { Config.standard with rxMaxPayload := 2 } (.getInfo (hex [1, 2, 3])) = false ∧
      wellFormed { Config.standard with rxMaxPayload := 2 } (.sendData (hex [1, 2, 3])) = false ∧
      wellFormed { Config.standard with rxMaxPayload := 2 } (.sendInfo (hex [1, 2, 3])) = false ∧
      wellFormed { Config.standard with rxMaxPayload := 2 } (.stopData (hex [1, 2, 3])) = false ∧
      wellFormed { Config.standard with rxMaxPayload := 2 } (.other 0x00 (hex [1, 2, 3])) = false ∧
      wellFormed { Config.standard with rxMaxPayload := 2 } (.stopData (hex [1, 2])) = true := by decide

/-- 30_encoding.md R97. -/
theorem test_wf_other_is_unassigned :
    wellFormed .standard (.other 0x50 []) = false ∧
      wellFormed .standard (.other 0x64 []) = false ∧
      wellFormed .standard (.other 0x69 []) = false ∧
      wellFormed .standard (.other 0x72 []) = false ∧
      wellFormed .standard (.other 0x51 []) = true := by decide

/-- 30_encoding.md R101. -/
theorem test_wf_record_key :
    wellFormed .standard (.recI8 (List.replicate 256 0) (List.replicate 1 0)) = false ∧
      wellFormed .standard (.recU8 (List.replicate 256 0) (List.replicate 1 0)) = false ∧
      wellFormed .standard (.recI16 (List.replicate 256 0) (List.replicate 2 0)) = false ∧
      wellFormed .standard (.recU16 (List.replicate 256 0) (List.replicate 2 0)) = false ∧
      wellFormed .standard (.recI32 (List.replicate 256 0) (List.replicate 4 0)) = false ∧
      wellFormed .standard (.recU32 (List.replicate 256 0) (List.replicate 4 0)) = false ∧
      wellFormed .standard (.recF32 (List.replicate 256 0) (List.replicate 4 0)) = false ∧
      wellFormed .standard (.recF64 (List.replicate 256 0) (List.replicate 8 0)) = false ∧
      wellFormed .standard (.recStr (List.replicate 256 0) (List.replicate 0 0)) = false ∧
      wellFormed .standard (.recI8 (List.replicate 255 0) [0]) = true := by decide

/-- 30_encoding.md R100, R102. -/
theorem test_wf_record_width :
    wellFormed .standard (.recI8 [] (List.replicate 0 0)) = false ∧
      wellFormed .standard (.recU8 [] (List.replicate 2 0)) = false ∧
      wellFormed .standard (.recI16 [] (List.replicate 1 0)) = false ∧
      wellFormed .standard (.recU16 [] (List.replicate 3 0)) = false ∧
      wellFormed .standard (.recI32 [] (List.replicate 3 0)) = false ∧
      wellFormed .standard (.recU32 [] (List.replicate 5 0)) = false ∧
      wellFormed .standard (.recF32 [] (List.replicate 3 0)) = false ∧
      wellFormed .standard (.recF64 [] (List.replicate 7 0)) = false ∧
      wellFormed .standard (.recStr [] (List.replicate 256 0)) = false ∧
      wellFormed .standard (.recStr [] (List.replicate 255 0)) = true := by decide

/-- The host port's index range (log 2). -/
theorem test_wf_crc_indices :
    wellFormed .standard (.crcCalc [] 4294967296 0) = false ∧
      wellFormed .standard (.crcCalc [] 0 4294967296) = false ∧
      wellFormed .standard (.crcCalc [] 4294967295 4294967295) = true := by decide

/-! ### Words written out from the spec's encodings: every constructor, and refusals by name -/

/-- 30_encoding.md R91, R96 with V40 to V44, V67. -/
theorem test_decode_wire_commands :
    decode .standard .frame (hex [0xAA, 0xBB, 0x00, 0x04, 0x50, 0x00, 0x00, 0xDD]) = .ok (.getInfo [], []) ∧
      decode .standard .frame (hex [0xAA, 0xBB, 0x00, 0x08, 0x64, 0x01, 0x01, 0x61, 0x07, 0x09, 0x78, 0xDD]) =
        .ok (.sendData (hex [0x01, 0x01, 0x61, 0x07]), []) ∧
      decode .standard .frame (hex [0xAA, 0xBB, 0x00, 0x04, 0x69, 0x00, 0x00, 0xDD]) = .ok (.sendInfo [], []) ∧
      decode .standard .frame (hex [0xAA, 0xBB, 0x00, 0x04, 0x72, 0x00, 0x00, 0xDD]) = .ok (.stopData [], []) ∧
      decode .standard .frame (hex [0xAA, 0xBB, 0x00, 0x0B, 0xAA, 0x08, 0x01, 0x6B, 0x03, 0xAA, 0xBB, 0xDD,
        0x1A, 0x88, 0xDD]) = .ok (.other 0xAA (hex [0x08, 0x01, 0x6B, 0x03, 0xAA, 0xBB, 0xDD]), []) := by decide

/-- 30_encoding.md R104 with V45 to V50. -/
theorem test_decode_frame_refusals :
    decode .standard .frame (hex [0xAB, 0xBB, 0x00, 0x04, 0x50, 0x00, 0x00, 0xDD]) = .error (.badHeader 0xAB) ∧
      decode .standard .frame (hex [0xAA, 0xBA, 0x00, 0x04, 0x50, 0x00, 0x00, 0xDD]) = .error (.badPacketId 0xBA) ∧
      decode .standard .frame (hex [0xAA, 0xBB, 0x00, 0x03, 0x50, 0x00, 0x00, 0xDD]) = .error (.badLength 3) ∧
      decode .standard .frame (hex [0xAA, 0xBB, 0x00, 0x04, 0x64, 0x00, 0x01, 0xDC]) = .error .badChecksum ∧
      decode .standard .frame (hex [0xAA, 0xBB, 0x00, 0x04, 0x64, 0x00, 0x00, 0xDC]) = .error (.badTerminator 0xDC) ∧
      decode .standard .frame (hex [0xAA, 0xBB, 0x00, 0x05, 0x64, 0x00, 0x00, 0xDD]) = .error .frameCutShort :=
        by decide

/-- 42_codec.md R191 to R199 with V30. -/
theorem test_decode_records :
    decode .standard .record (hex [0x00, 0x01, 0x61, 0xFE]) = .ok (.recI8 (hex [0x61]) (hex [0xFE]), []) ∧
      decode .standard .record (hex [0x01, 0x01, 0x62, 0xC8]) = .ok (.recU8 (hex [0x62]) (hex [0xC8]), []) ∧
      decode .standard .record (hex [0x02, 0x01, 0x63, 0xD4, 0xFE]) = .ok (.recI16 (hex [0x63]) (hex [0xD4,
        0xFE]), []) ∧
      decode .standard .record (hex [0x03, 0x01, 0x64, 0xEF, 0xBE]) = .ok (.recU16 (hex [0x64]) (hex [0xEF,
        0xBE]), []) ∧
      decode .standard .record (hex [0x04, 0x01, 0x65, 0xFE, 0xFF, 0xFF, 0xFF]) = .ok (.recI32 (hex [0x65]) (hex
        [0xFE, 0xFF, 0xFF, 0xFF]), []) ∧
      decode .standard .record (hex [0x05, 0x01, 0x66, 0xEF, 0xBE, 0xAD, 0xDE]) = .ok (.recU32 (hex [0x66]) (hex
        [0xEF, 0xBE, 0xAD, 0xDE]), []) ∧
      decode .standard .record (hex [0x06, 0x01, 0x67, 0x00, 0x00, 0x80, 0x3F]) = .ok (.recF32 (hex [0x67]) (hex
        [0x00, 0x00, 0x80, 0x3F]), []) ∧
      decode .standard .record (hex [0x07, 0x01, 0x68, 0x00, 0x00, 0x00, 0x00, 0x00, 0x00, 0x04, 0xC0]) = .ok
        (.recF64 (hex [0x68]) (hex [0x00, 0x00, 0x00, 0x00, 0x00, 0x00, 0x04, 0xC0]), []) ∧
      decode .standard .record (hex [0x08, 0x01, 0x73, 0x02, 0x68, 0x69]) = .ok (.recStr (hex [0x73]) (hex
        [0x68, 0x69]), []) := by decide

/-- V35, V32, V36. -/
theorem test_decode_record_refusals :
    decode .standard .record (hex [0x09]) = .error (.unknownTag 0x09) ∧
      decode .standard .record (hex [0x03, 0x05, 0x63, 0x6C]) = .error .recordCutShort ∧
      decode .standard .record (hex [0x08, 0x01, 0x61, 0x05, 0x68]) = .error .recordCutShort := by decide

/-- The codes of 30_encoding.md R106; the operands in the host port's form (log 2). -/
theorem test_decode_sets :
    decode .standard .hostOp (hex [0x00, 0x01, 0x61, 0x00, 0xFE]) = .ok (.setI8 (hex [0x61]) (-2), []) ∧
      decode .standard .hostOp (hex [0x01, 0x01, 0x62, 0x00, 0xC8]) = .ok (.setU8 (hex [0x62]) 200, []) ∧
      decode .standard .hostOp (hex [0x02, 0x01, 0x63, 0x00, 0xFE, 0xD4]) = .ok (.setI16 (hex [0x63]) (-300), []) ∧
      decode .standard .hostOp (hex [0x03, 0x01, 0x64, 0x00, 0xBE, 0xEF]) = .ok (.setU16 (hex [0x64]) 0xBEEF, []) ∧
      decode .standard .hostOp (hex [0x04, 0x01, 0x65, 0x00, 0xFF, 0xFF, 0xFF, 0xFE]) = .ok (.setI32 (hex
        [0x65]) (-2), []) ∧
      decode .standard .hostOp (hex [0x05, 0x01, 0x66, 0x00, 0xDE, 0xAD, 0xBE, 0xEF]) = .ok (.setU32 (hex
        [0x66]) 0xDEADBEEF, []) ∧
      decode .standard .hostOp (hex [0x06, 0x01, 0x67, 0x00, 0x3F, 0x80, 0x00, 0x00]) = .ok (.setF32 (hex
        [0x67]) 0x3F800000, []) ∧
      decode .standard .hostOp (hex [0x07, 0x01, 0x68, 0x00, 0xC0, 0x04, 0x00, 0x00, 0x00, 0x00, 0x00, 0x00]) =
        .ok (.setF64 (hex [0x68]) 0xC004000000000000, []) ∧
      decode .standard .hostOp (hex [0x08, 0x01, 0x73, 0x00, 0x01, 0x68, 0x01, 0x69, 0x00]) = .ok (.setStr (hex
        [0x73]) (hex [0x68, 0x69]), []) := by decide

/-- 30_encoding.md R106. -/
theorem test_decode_gets :
    decode .standard .hostOp (hex [0x10, 0x01, 0x61, 0x00]) = .ok (.getI8 (hex [0x61]), []) ∧
      decode .standard .hostOp (hex [0x11, 0x01, 0x61, 0x00]) = .ok (.getU8 (hex [0x61]), []) ∧
      decode .standard .hostOp (hex [0x12, 0x01, 0x61, 0x00]) = .ok (.getI16 (hex [0x61]), []) ∧
      decode .standard .hostOp (hex [0x13, 0x01, 0x61, 0x00]) = .ok (.getU16 (hex [0x61]), []) ∧
      decode .standard .hostOp (hex [0x14, 0x01, 0x61, 0x00]) = .ok (.getI32 (hex [0x61]), []) ∧
      decode .standard .hostOp (hex [0x15, 0x01, 0x61, 0x00]) = .ok (.getU32 (hex [0x61]), []) ∧
      decode .standard .hostOp (hex [0x16, 0x01, 0x61, 0x00]) = .ok (.getF32 (hex [0x61]), []) ∧
      decode .standard .hostOp (hex [0x17, 0x01, 0x61, 0x00]) = .ok (.getF64 (hex [0x61]), []) ∧
      decode .standard .hostOp (hex [0x18, 0x01, 0x61, 0x00]) = .ok (.getStr (hex [0x61]), []) := by decide

/-- 30_encoding.md R106. -/
theorem test_decode_store_codec_crc :
    decode .standard .hostOp (hex [0x20, 0x01, 0x62, 0x00]) = .ok (.find (hex [0x62]), []) ∧
      decode .standard .hostOp (hex [0x21]) = .ok (.clear, []) ∧
      decode .standard .hostOp (hex [0x22]) = .ok (.encode, []) ∧
      decode .standard .hostOp (hex [0x23, 0x01, 0x03, 0x00]) = .ok (.decode (hex [0x03]), []) ∧
      decode .standard .hostOp (hex [0x30, 0x01, 0x0A, 0x01, 0x0B, 0x00, 0x00, 0x00, 0x00, 0x01, 0x00, 0x00,
        0x01, 0x02]) = .ok (.crcCalc (hex [0x0A, 0x0B]) 1 258, []) := by decide

/-- 30_encoding.md R106. -/
theorem test_decode_poll_send_status :
    decode .standard .hostOp (hex [0x40]) = .ok (.poll, []) ∧
      decode .standard .hostOp (hex [0x41, 0x69]) = .ok (.send 0x69, []) ∧
      decode .standard .hostOp (hex [0x42]) = .ok (.available, []) ∧
      decode .standard .hostOp (hex [0x43]) = .ok (.statusRead, []) ∧
      decode .standard .hostOp (hex [0x44]) = .ok (.errClear, []) := by decide

/-- 30_encoding.md R106. -/
theorem test_decode_descriptor :
    decode .standard .hostOp (hex [0x50, 0x12, 0x34]) = .ok (.descSet0 0x1234, []) ∧
      decode .standard .hostOp (hex [0x51, 0x12, 0x34]) = .ok (.descSet1 0x1234, []) ∧
      decode .standard .hostOp (hex [0x52, 0x12, 0x34, 0x56, 0x78]) = .ok (.descSet2 0x12345678, []) ∧
      decode .standard .hostOp (hex [0x53, 0x01]) = .ok (.descSet3 1, []) ∧
      decode .standard .hostOp (hex [0x54, 0x02]) = .ok (.descSet4 2, []) ∧
      decode .standard .hostOp (hex [0x55, 0x03]) = .ok (.descSet5 3, []) ∧
      decode .standard .hostOp (hex [0x56, 0x01, 0x6E, 0x00]) = .ok (.descSet6 (hex [0x6E]), []) ∧
      decode .standard .hostOp (hex [0x57, 0x01, 0x69, 0x00]) = .ok (.descSet7 (hex [0x69]), []) := by decide

/-- 30_encoding.md R106. -/
theorem test_decode_descriptor_gets :
    decode .standard .hostOp (hex [0x60]) = .ok (.descGet0, []) ∧
      decode .standard .hostOp (hex [0x61]) = .ok (.descGet1, []) ∧
      decode .standard .hostOp (hex [0x62]) = .ok (.descGet2, []) ∧
      decode .standard .hostOp (hex [0x63]) = .ok (.descGet3, []) ∧
      decode .standard .hostOp (hex [0x64]) = .ok (.descGet4, []) ∧
      decode .standard .hostOp (hex [0x65]) = .ok (.descGet5, []) ∧
      decode .standard .hostOp (hex [0x66]) = .ok (.descGet6, []) ∧
      decode .standard .hostOp (hex [0x67]) = .ok (.descGet7, []) := by decide

/-- 30_encoding.md R107, on both sides of each group of codes. -/
theorem test_decode_host_refusals :
    (∀ c ∈ hex [0x09, 0x0F, 0x19, 0x1F, 0x24, 0x2F, 0x31, 0x3F, 0x45, 0x4F, 0x58, 0x5F, 0x68, 0xFF],
        decode .standard .hostOp [c] = .error (.invalidCode c)) ∧
      decode .standard .hostOp (hex [0x00, 0x02, 0x61, 0x00, 0xFE]) = .error .badOperands := by decide

/-- 00_scope.md R12. -/
theorem test_decode_receive_steps :
    decode .standard .rxStep (hex [0xAA]) = .ok (.rxByte 0xAA, []) ∧
      decode .standard .rxStep [] = .ok (.rxEmpty, []) := by decide

/-- Bit 0 is the least significant bit of the first byte. -/
theorem test_table_words :
    decodeTableWord 40 0x50040000BBAA = none ∧
      decodeTableWord 40 0x500400BBAA = some (.getInfo []) ∧
      decodeTableWord 40 0x640500BBAA = some (.sendData [0x00#8]) ∧
      decodeTableWord 8 0x41 = some (.send 0x00#8) ∧
      decodeTableWord 8 0x0F = none ∧
      decodeTableWord 0 0 = some .rxEmpty := by decide

/-- The placed word is what the next step runs; V60's frame with command 0x00. -/
theorem test_table_word_runs :
    after State.lastCmd (step (State.reset.withFetchWord 40 0x500400BBAA)) = some 0x50#8 ∧
      after State.txLog (step (State.reset.withFetchWord 8 0x41)) = some [hex [0xAA, 0xBB, 0x00, 0x04, 0x00,
        0x00, 0x00, 0xDD]] ∧
      after State.out (step (State.reset.withFetchWord 0 0)) = some (.raised .ok) := by decide

/-! ### One step each, against the vectors of 95_test_vectors.md -/

/-- V20. -/
theorem test_set_i8 :
    after State.x (exec (.setI8 (hex [0x61]) (-2)) State.reset) =
      some [⟨.i8, (hex [0x61]), (hex [0xFE])⟩] := by decide

/-- V20. -/
theorem test_set_u8 :
    after State.x (exec (.setU8 (hex [0x62]) 200) State.reset) =
      some [⟨.u8, (hex [0x62]), (hex [0xC8])⟩] := by decide

/-- V20. -/
theorem test_set_i16 :
    after State.x (exec (.setI16 (hex [0x63]) (-300)) State.reset) =
      some [⟨.i16, (hex [0x63]), (hex [0xD4, 0xFE])⟩] := by decide

/-- V20. -/
theorem test_set_u16 :
    after State.x (exec (.setU16 (hex [0x64]) 0xBEEF) State.reset) =
      some [⟨.u16, (hex [0x64]), (hex [0xEF, 0xBE])⟩] := by decide

/-- V20. -/
theorem test_set_i32 :
    after State.x (exec (.setI32 (hex [0x65]) (-2)) State.reset) =
      some [⟨.i32, (hex [0x65]), (hex [0xFE, 0xFF, 0xFF, 0xFF])⟩] := by decide

/-- V20. -/
theorem test_set_u32 :
    after State.x (exec (.setU32 (hex [0x66]) 0xDEADBEEF) State.reset) =
      some [⟨.u32, (hex [0x66]), (hex [0xEF, 0xBE, 0xAD, 0xDE])⟩] := by decide

/-- V20. -/
theorem test_set_f32 :
    after State.x (exec (.setF32 (hex [0x67]) 0x3F800000) State.reset) =
      some [⟨.f32, (hex [0x67]), (hex [0x00, 0x00, 0x80, 0x3F])⟩] := by decide

/-- V20. -/
theorem test_set_f64 :
    after State.x (exec (.setF64 (hex [0x68]) 0xC004000000000000) State.reset) =
      some [⟨.f64, (hex [0x68]), (hex [0x00, 0x00, 0x00, 0x00, 0x00, 0x00, 0x04, 0xC0])⟩] := by decide

/-- V28. -/
theorem test_set_str :
    after State.x (exec (.setStr (hex [0x73]) (hex [0x68, 0x65, 0x6C, 0x6C, 0x6F])) (holding [⟨.str, (hex [0x73]),
      (hex [0x68, 0x69])⟩])) =
      some [⟨.str, (hex [0x73]), (hex [0x68, 0x65, 0x6C, 0x6C, 0x6F])⟩] := by decide

/-- V20, `VALUE_ORDER = big`. -/
theorem test_set_i16_big_endian :
    after State.x (exec (.setI16 (hex [0x63]) (-300)) (bigEndian [])) =
      some [⟨.i16, (hex [0x63]), (hex [0xFE, 0xD4])⟩] := by decide

/-- V20, `VALUE_ORDER = big`. -/
theorem test_set_u16_big_endian :
    after State.x (exec (.setU16 (hex [0x64]) 0xBEEF) (bigEndian [])) =
      some [⟨.u16, (hex [0x64]), (hex [0xBE, 0xEF])⟩] := by decide

/-- V20, `VALUE_ORDER = big`. -/
theorem test_set_i32_big_endian :
    after State.x (exec (.setI32 (hex [0x65]) (-2)) (bigEndian [])) =
      some [⟨.i32, (hex [0x65]), (hex [0xFF, 0xFF, 0xFF, 0xFE])⟩] := by decide

/-- V20, `VALUE_ORDER = big`. -/
theorem test_set_u32_big_endian :
    after State.x (exec (.setU32 (hex [0x66]) 0xDEADBEEF) (bigEndian [])) =
      some [⟨.u32, (hex [0x66]), (hex [0xDE, 0xAD, 0xBE, 0xEF])⟩] := by decide

/-- V20, `VALUE_ORDER = big`. -/
theorem test_set_f64_big_endian :
    after State.x (exec (.setF64 (hex [0x68]) 0xC004000000000000) (bigEndian [])) =
      some [⟨.f64, (hex [0x68]), (hex [0xC0, 0x04, 0x00, 0x00, 0x00, 0x00, 0x00, 0x00])⟩] := by decide

/-- V22. -/
theorem test_set_in_place :
    after State.x (exec (.setU8 (hex [0x61]) 9) (holding abc)) =
      some [⟨.u8, (hex [0x61]), (hex [0x09])⟩, ⟨.u8, (hex [0x62]), (hex [0x02])⟩, ⟨.u8, (hex [0x63]), (hex
        [0x03])⟩] := by decide

/-- V29: same width, another tag. -/
theorem test_set_moves_to_end :
    after State.x (exec (.setF32 (hex [0x6E]) 0x3F800000) (holding [⟨.i32, (hex [0x6E]), (hex [0x01, 0x00, 0x00,
      0x00])⟩, ⟨.u8, (hex [0x7A]), (hex [0x05])⟩])) =
      some [⟨.u8, (hex [0x7A]), (hex [0x05])⟩, ⟨.f32, (hex [0x6E]), (hex [0x00, 0x00, 0x80, 0x3F])⟩] := by decide

/-- V21. -/
theorem test_get_i8 :
    after (fun t => (t.out, t.readFlag)) (exec (.getI8 (hex [0x61])) (holding v20)) =
      some (.reading .ok (.signed (-2)), true) := by decide

/-- V21. -/
theorem test_get_u8 :
    after (fun t => (t.out, t.readFlag)) (exec (.getU8 (hex [0x61])) (holding v20)) =
      some (.reading .ok (.unsigned 254), true) := by decide

/-- V21. -/
theorem test_get_i16 :
    after (fun t => (t.out, t.readFlag)) (exec (.getI16 (hex [0x64])) (holding v20)) =
      some (.reading .ok (.signed (-16657)), true) := by decide

/-- V21. -/
theorem test_get_u16 :
    after (fun t => (t.out, t.readFlag)) (exec (.getU16 (hex [0x63])) (holding v20)) =
      some (.reading .ok (.unsigned 65236), true) := by decide

/-- V20, V21. -/
theorem test_get_i32 :
    after (fun t => (t.out, t.readFlag)) (exec (.getI32 (hex [0x65])) (holding v20)) =
      some (.reading .ok (.signed (-2)), true) := by decide

/-- V20, V21. -/
theorem test_get_u32 :
    after (fun t => (t.out, t.readFlag)) (exec (.getU32 (hex [0x66])) (holding v20)) =
      some (.reading .ok (.unsigned 0xDEADBEEF), true) := by decide

/-- V21. -/
theorem test_get_f32 :
    after (fun t => (t.out, t.readFlag)) (exec (.getF32 (hex [0x66])) (holding v20)) =
      some (.reading .ok (.pattern32 0xDEADBEEF), true) := by decide

/-- V21. -/
theorem test_get_f64 :
    after (fun t => (t.out, t.readFlag)) (exec (.getF64 (hex [0x68])) (holding v20)) =
      some (.reading .ok (.pattern64 0xC004000000000000), true) := by decide

/-- V21. -/
theorem test_get_str :
    after (fun t => (t.out, t.readFlag)) (exec (.getStr (hex [0x64])) (holding v20)) =
      some (.reading .ok (.text (hex [0xEF, 0xBE])), true) := by decide

/-- V24. -/
theorem test_get_wrong_width :
    after (fun t => (t.out, t.readFlag)) (exec (.getU32 (hex [0x61])) (holding abc)) =
      some (.reading .typeSizeMismatch (.unsigned 0), true) := by decide

/-- V24. -/
theorem test_get_absent :
    after (fun t => (t.out, t.readFlag)) (exec (.getStr (hex [0x7A, 0x7A])) (holding abc)) =
      some (.reading .keyAbsent (.text []), false) := by decide

/-- V29b: only widths are compared. -/
theorem test_get_string_as_f64 :
    after State.out (exec (.getF64 (hex [0x71])) (holding [⟨.str, (hex [0x71]), (hex [0x41, 0x42, 0x43, 0x44,
      0x45, 0x46, 0x47, 0x48])⟩])) =
      some (.reading .ok (.pattern64 0x4847464544434241)) := by decide

/-- V25. -/
theorem test_find :
    after State.out (exec (.find (hex [0x62])) (holding abc)) = some (.index (some 1)) ∧
      after State.out (exec (.find []) (holding abc)) = some (.index none) := by decide

/-- V26. -/
theorem test_clear :
    after State.x (exec .clear (holding abc)) = some [] := by decide

/-- V30. -/
theorem test_encode :
    after State.out (exec .encode (holding v20)) =
      some (.bytes (hex [0x00, 0x01, 0x61, 0xFE, 0x01, 0x01, 0x62, 0xC8, 0x02, 0x01, 0x63, 0xD4, 0xFE, 0x03,
        0x01, 0x64, 0xEF, 0xBE, 0x04, 0x01, 0x65, 0xFE, 0xFF, 0xFF, 0xFF, 0x05, 0x01, 0x66, 0xEF, 0xBE, 0xAD,
        0xDE, 0x06, 0x01, 0x67, 0x00, 0x00, 0x80, 0x3F, 0x07, 0x01, 0x68, 0x00, 0x00, 0x00, 0x00, 0x00, 0x00,
        0x04, 0xC0, 0x08, 0x01, 0x73, 0x02, 0x68, 0x69])) := by decide

/-- V37. -/
theorem test_decode_repeated_key :
    after State.x (exec (.decode (hex [0x01, 0x01, 0x61, 0x01, 0x01, 0x01, 0x61, 0x02])) (holding abc)) =
      some [⟨.u8, (hex [0x61]), (hex [0x01])⟩, ⟨.u8, (hex [0x61]), (hex [0x02])⟩] := by decide

/-- V39. -/
theorem test_decode_failure_discards :
    after (fun t => (t.x, t.out)) (exec (.decode (hex [0x01, 0x01, 0x61, 0x07, 0x03, 0x05, 0x63, 0x6C])) (holding
      abc)) =
      some ([], .status .decodeOutOfRange) := by decide

/-- 42_codec.md R201, R204: the first excess Record decides, unless it is itself cut short. -/
theorem test_decode_excess_before_malformed :
    after State.out (exec (.decode (hex [0x01, 0x01, 0x61, 0x07, 0x01, 0x01, 0x62, 0x08, 0x09])) (bounded 1 [])) =
      some (.status .storeFull) ∧
      after State.out (exec (.decode (hex [0x01, 0x01, 0x61, 0x07, 0x01, 0x01, 0x62])) (bounded 1 [])) = some
        (.status .decodeOutOfRange) := by decide

/-- 42_codec.md R205: a repeated key is appended. -/
theorem test_rec_i8 :
    after State.x (exec (.recI8 (hex [0x61]) (hex [0xFE])) (holding a7)) =
      some (a7 ++ [⟨.i8, (hex [0x61]), (hex [0xFE])⟩]) := by decide

/-- 42_codec.md R205: a repeated key is appended. -/
theorem test_rec_u8 :
    after State.x (exec (.recU8 (hex [0x61]) (hex [0xC8])) (holding a7)) =
      some (a7 ++ [⟨.u8, (hex [0x61]), (hex [0xC8])⟩]) := by decide

/-- 42_codec.md R205: a repeated key is appended. -/
theorem test_rec_i16 :
    after State.x (exec (.recI16 (hex [0x61]) (hex [0xD4, 0xFE])) (holding a7)) =
      some (a7 ++ [⟨.i16, (hex [0x61]), (hex [0xD4, 0xFE])⟩]) := by decide

/-- 42_codec.md R205: a repeated key is appended. -/
theorem test_rec_u16 :
    after State.x (exec (.recU16 (hex [0x61]) (hex [0xEF, 0xBE])) (holding a7)) =
      some (a7 ++ [⟨.u16, (hex [0x61]), (hex [0xEF, 0xBE])⟩]) := by decide

/-- 42_codec.md R205: a repeated key is appended. -/
theorem test_rec_i32 :
    after State.x (exec (.recI32 (hex [0x61]) (hex [0xFE, 0xFF, 0xFF, 0xFF])) (holding a7)) =
      some (a7 ++ [⟨.i32, (hex [0x61]), (hex [0xFE, 0xFF, 0xFF, 0xFF])⟩]) := by decide

/-- 42_codec.md R205: a repeated key is appended. -/
theorem test_rec_u32 :
    after State.x (exec (.recU32 (hex [0x61]) (hex [0xEF, 0xBE, 0xAD, 0xDE])) (holding a7)) =
      some (a7 ++ [⟨.u32, (hex [0x61]), (hex [0xEF, 0xBE, 0xAD, 0xDE])⟩]) := by decide

/-- 42_codec.md R205: a repeated key is appended. -/
theorem test_rec_f32 :
    after State.x (exec (.recF32 (hex [0x61]) (hex [0x00, 0x00, 0x80, 0x3F])) (holding a7)) =
      some (a7 ++ [⟨.f32, (hex [0x61]), (hex [0x00, 0x00, 0x80, 0x3F])⟩]) := by decide

/-- 42_codec.md R205: a repeated key is appended. -/
theorem test_rec_f64 :
    after State.x (exec (.recF64 (hex [0x61]) (hex [0x00, 0x00, 0x00, 0x00, 0x00, 0x00, 0x04, 0xC0])) (holding a7)) =
      some (a7 ++ [⟨.f64, (hex [0x61]), (hex [0x00, 0x00, 0x00, 0x00, 0x00, 0x00, 0x04, 0xC0])⟩]) := by decide

/-- 42_codec.md R205: a repeated key is appended. -/
theorem test_rec_str :
    after State.x (exec (.recStr (hex [0x61]) (hex [0x68, 0x69])) (holding a7)) =
      some (a7 ++ [⟨.str, (hex [0x61]), (hex [0x68, 0x69])⟩]) := by decide

/-- V19b. -/
theorem test_crc_calc :
    after State.out (exec (.crcCalc (hex [0x31, 0x32, 0x33, 0x34, 0x35, 0x36, 0x37, 0x38, 0x39]) 2 5) State.reset)
      = some (.checksum 0x3352) := by decide

/-- V19e. -/
theorem test_crc_calc_range :
    after State.out (exec (.crcCalc (hex [1, 2, 3, 4]) 3 2) State.reset) = some (.status .rangeError) := by decide

/-- V43. -/
theorem test_poll_good_frame :
    after (fun t => (t.x, t.dataAvailable, statusWord t)) (exec .poll { State.reset with rxFifo := (hex [0xAA, 0xBB, 0x00, 0x08, 0x64, 0x01, 0x01, 0x61, 0x07, 0x09, 0x78, 0xDD]) }) =
      some (a7, true, 0x09064) := by decide

/-- V47. -/
theorem test_poll_corrupt_frame :
    after (fun t => (t.rxState, t.dataAvailable, statusWord t)) (exec .poll { State.reset with dataAvailable := true, rxFifo := (hex [0xAA, 0xBB, 0x00, 0x04, 0x64, 0x00, 0x01, 0xDC]) }) =
      some (.idle, false, 0x02100) := by decide

/-- V61. -/
theorem test_send :
    after State.txLog (exec (.send 0x64) (holding a7)) = some [(hex [0xAA, 0xBB, 0x00, 0x08, 0x64, 0x01, 0x01,
      0x61, 0x07, 0x09, 0x78, 0xDD])] := by decide

/-- V64: the time has wrapped. -/
theorem test_send_window :
    after (fun t => (t.out, t.suppress)) (exec (.send 0x01) { State.reset with suppress := true, tStop := 0xFFFFFF00, now := 0x00000E9F }) =
        some (.status .txSuppressed, true) ∧
      after (fun t => (t.out, t.suppress)) (exec (.send 0x01) { State.reset with suppress := true, tStop := 0xFFFFFF00, now := 0x00000EA0 }) =
        some (.status .ok, false) := by decide

/-- 45_tx_and_host.md R278. -/
theorem test_available :
    after State.out (exec .available { State.reset with dataAvailable := true }) = some (.bit true) := by decide

/-- 45_tx_and_host.md R279: 1 1 101 1001 01100100. -/
theorem test_status_read :
    after State.out (exec .statusRead { State.reset with suppress := true, dataAvailable := true, rxLast := .decodeError, err := 0b1001, lastCmd := 0x64 }) =
      some (.word 0x1D964) := by decide

/-- 45_tx_and_host.md R280. -/
theorem test_err_clear :
    after (fun t => (t.err, t.rxLast)) (exec .errClear { State.reset with err := 0b1111, rxLast := .lengthError }) =
      some (0b0000, .lengthError) := by decide

/-- 45_tx_and_host.md R281. -/
theorem test_desc_set_0 :
    after State.desc (exec (.descSet0 0x8001) State.reset) = some { Descriptor.zero with classId := 0x8001 } := by decide

/-- 45_tx_and_host.md R281. -/
theorem test_desc_set_1 :
    after State.desc (exec (.descSet1 0x8001) State.reset) = some { Descriptor.zero with typeId := 0x8001 } := by decide

/-- 45_tx_and_host.md R281. -/
theorem test_desc_set_2 :
    after State.desc (exec (.descSet2 0x12345678) State.reset) = some { Descriptor.zero with serial := 0x12345678 } := by decide

/-- 45_tx_and_host.md R281. -/
theorem test_desc_set_3 :
    after State.desc (exec (.descSet3 0xFF) State.reset) = some { Descriptor.zero with verMajor := 0xFF } := by decide

/-- 45_tx_and_host.md R281. -/
theorem test_desc_set_4 :
    after State.desc (exec (.descSet4 0xFF) State.reset) = some { Descriptor.zero with verMinor := 0xFF } := by decide

/-- 45_tx_and_host.md R281. -/
theorem test_desc_set_5 :
    after State.desc (exec (.descSet5 0xFF) State.reset) = some { Descriptor.zero with verRev := 0xFF } := by decide

/-- 45_tx_and_host.md R281. -/
theorem test_desc_set_6 :
    after State.desc (exec (.descSet6 (hex [0x6E])) State.reset) = some { Descriptor.zero with name := (hex [0x6E]) } := by decide

/-- 45_tx_and_host.md R281. -/
theorem test_desc_set_7 :
    after State.desc (exec (.descSet7 (hex [0x69])) State.reset) = some { Descriptor.zero with info := (hex [0x69]) } := by decide

/-- V78. -/
theorem test_desc_set_long :
    after (fun t => (t.out, t.desc.name)) (exec (.descSet6 (List.replicate 256 0)) State.reset) =
      some (.status .valueTooLong, []) := by decide

/-- Eight different field values. -/
def desc : Descriptor :=
  ⟨0xF001, 0xF002, 0xF0000003, 0xF4, 0xF5, 0xF6, hex [0x6E], hex [0x69]⟩

/-- 45_tx_and_host.md R282. -/
theorem test_desc_get_0 :
    after State.out (exec .descGet0 { State.reset with desc := desc }) = some (.value (.unsigned 0xF001)) := by decide

/-- 45_tx_and_host.md R282. -/
theorem test_desc_get_1 :
    after State.out (exec .descGet1 { State.reset with desc := desc }) = some (.value (.unsigned 0xF002)) := by decide

/-- 45_tx_and_host.md R282. -/
theorem test_desc_get_2 :
    after State.out (exec .descGet2 { State.reset with desc := desc }) = some (.value (.unsigned 0xF0000003)) := by decide

/-- 45_tx_and_host.md R282. -/
theorem test_desc_get_3 :
    after State.out (exec .descGet3 { State.reset with desc := desc }) = some (.value (.unsigned 0xF4)) := by decide

/-- 45_tx_and_host.md R282. -/
theorem test_desc_get_4 :
    after State.out (exec .descGet4 { State.reset with desc := desc }) = some (.value (.unsigned 0xF5)) := by decide

/-- 45_tx_and_host.md R282. -/
theorem test_desc_get_5 :
    after State.out (exec .descGet5 { State.reset with desc := desc }) = some (.value (.unsigned 0xF6)) := by decide

/-- 45_tx_and_host.md R282. -/
theorem test_desc_get_6 :
    after State.out (exec .descGet6 { State.reset with desc := desc }) = some (.value (.text (hex [0x6E]))) := by decide

/-- 45_tx_and_host.md R282. -/
theorem test_desc_get_7 :
    after State.out (exec .descGet7 { State.reset with desc := desc }) = some (.value (.text (hex [0x69]))) := by decide

/-- V42, V42b. -/
theorem test_get_info :
    after State.txLog (exec (.getInfo (hex [0xFF, 0xFF])) State.reset) =
      some [(hex [0xAA, 0xBB, 0x00, 0x48, 0x69, 0x03, 0x05, 0x63, 0x6C, 0x61, 0x73, 0x73, 0x00, 0x00, 0x03,
        0x04, 0x74, 0x79, 0x70, 0x65, 0x00, 0x00, 0x05, 0x06, 0x73, 0x65, 0x72, 0x69, 0x61, 0x6C, 0x00, 0x00,
        0x00, 0x00, 0x01, 0x06, 0x76, 0x6D, 0x61, 0x6A, 0x6F, 0x72, 0x00, 0x01, 0x06, 0x76, 0x6D, 0x69, 0x6E,
        0x6F, 0x72, 0x00, 0x01, 0x04, 0x76, 0x72, 0x65, 0x76, 0x00, 0x08, 0x04, 0x6E, 0x61, 0x6D, 0x65, 0x00,
        0x08, 0x04, 0x69, 0x6E, 0x66, 0x6F, 0x00, 0x44, 0xBE, 0xDD])] := by decide

/-- V66. -/
theorem test_get_info_suppressed :
    after (fun t => (t.txLog, t.x.length, statusWord t)) (exec (.getInfo []) { holding a7 with suppress := true, tStop := 1000, now := 2000 }) =
      some ([], 8, 0x11050) := by decide

/-- V44. -/
theorem test_stop_data :
    after (fun t => (t.tStop, statusWord t)) (exec (.stopData []) { State.reset with timeAdvance := [1000] }) =
      some (1000, 0x11072) := by decide

/-- V52. -/
theorem test_send_data_malformed :
    after (fun t => (t.x, t.readFlag, statusWord t)) (exec (.sendData (hex [0x03, 0x05, 0x63, 0x6C])) { holding a7 with dataAvailable := true }) =
      some ([], false, 0x05864) := by decide

/-- V40. -/
theorem test_send_data_empty :
    after (fun t => (t.x, t.readFlag, statusWord t)) (exec (.sendData []) { holding a7 with readFlag := true }) =
      some (a7, true, 0x01064) := by decide

/-- V53. -/
theorem test_send_info :
    after (fun t => (t.x, statusWord t)) (exec (.sendInfo (hex [0x01, 0x01, 0x61, 0x09])) (holding a7)) = some
      (a7, 0x01069) := by decide

/-- V41. -/
theorem test_other :
    after (fun t => (t.x, statusWord t)) (exec (.other 0x00 []) (holding a7)) = some (a7, 0x01000) := by decide

/-- V49. -/
theorem test_rx_byte_second_header :
    after State.rxState (exec (.rxByte 0xAA) { State.reset with rxState := .sawHeader }) = some .idle := by decide

/-- V48. -/
theorem test_rx_byte_short_length :
    after (fun t => (t.rxState, statusWord t)) (exec (.rxByte 0x03) { State.reset with rxState := .waitLenLo }) =
      some (.idle, 0x04400) := by decide

/-- V71. -/
theorem test_rx_empty :
    after (fun t => (t.dataAvailable, t.readFlag)) (exec .rxEmpty { State.reset with dataAvailable := true, readFlag := true }) =
      some (false, true) := by decide

/-! ### Witnesses: states and operands that meet the hypotheses of the statements -/

theorem test_witness_CrcCalcAnswersChecksumOfRange :
    (4 ≤ 4 ∧ 4 ≤ (hex [1, 2, 3, 4]).length) ∧
      (0 ≤ 4 ∧ 4 ≤ (hex [1, 2, 3, 4]).length) ∧
      ¬ (3 ≤ 2 ∧ 2 ≤ (hex [1, 2, 3, 4]).length) ∧
      ¬ (0 ≤ 5 ∧ 5 ≤ (hex [1, 2, 3, 4]).length) := by decide

theorem test_witness_CrcCornerCases :
    4 ≤ (hex [1, 2, 3, 4]).length := by decide

/-- V19d. -/
theorem test_witness_CrcIsLinearWithZeroResidue :
    (hex [0x01, 0x01, 0x61, 0x07]).length = (hex [0x03, 0x05, 0x63, 0x64]).length ∧
      crc (hex [0x02, 0x04, 0x02, 0x63]) = 0x0B0F := by decide

/-- V16b. -/
theorem test_witness_CrcDetectsOneChangedByte :
    0x07#8 ≠ 0x06#8 ∧
      crc (hex [0x01, 0x01, 0x61, 0x06]) = 0x1959 := by decide

/-- V16c. -/
theorem test_witness_CrcDetectsOddBitErrors :
    (hex [0x01, 0x01, 0x61, 0x07]).length = (hex [0x81, 0x01, 0x61, 0x07]).length ∧
      (List.zipWith (fun u v : Byte => (List.range 8).countP fun k => (u ^^^ v).getLsbD k) (hex [0x01, 0x01,
        0x61, 0x07]) (hex [0x81, 0x01, 0x61, 0x07])).sum % 2 = 1 := by decide

theorem test_witness_SetAppendsNewField :
    setRecord (holding abc).cfg.valueOrder (.setStr (List.replicate 255 0x61#8) (List.replicate 255 0x61#8)) =
      some ⟨.str, (List.replicate 255 0x61#8), (List.replicate 255 0x61#8)⟩ ∧
      ((List.replicate 255 0x61#8).length ≤ 255 ∧ (Tag.str = .str → (List.replicate 255 0x61#8).length ≤ 255)) ∧
      (∀ q ∈ (holding abc).x, q.key ≠ (List.replicate 255 0x61#8)) ∧
      (holding abc).cfg.storeMaxRecords ≠ some (holding abc).x.length := by decide

theorem test_witness_SetPositionLaw :
    setRecord (holding abc).cfg.valueOrder (.setU8 (hex [0x61]) 9) = some ⟨.u8, (hex [0x61]), (hex [0x09])⟩ ∧
      setRecord (holding abc).cfg.valueOrder (.setU16 (hex [0x61]) 9) = some ⟨.u16, (hex [0x61]), (hex [0x09, 0x00])⟩ ∧
      (holding abc).x = [] ++ ⟨.u8, (hex [0x61]), hex [0x01]⟩ :: abc.drop 1 ∧
      (∀ p ∈ ([] : List Record), p.key ≠ hex [0x61]) ∧
      Tag.u8 = .u8 ∧
      Tag.u8 ≠ .u16 := by decide

theorem test_witness_SetRefusesOversizeAndFull :
    setRecord State.reset.cfg.valueOrder (.setI8 (List.replicate 256 0x61#8) 0) = some ⟨.i8, (List.replicate 256
      0x61#8), [0]⟩ ∧
      255 < (List.replicate 256 0x61#8).length ∧
      setRecord State.reset.cfg.valueOrder (.setStr (List.replicate 255 0x61#8) (List.replicate 256 0x61#8)) =
        some ⟨.str, (List.replicate 255 0x61#8), (List.replicate 256 0x61#8)⟩ ∧
      (List.replicate 255 0x61#8).length ≤ 255 ∧
      setRecord (bounded 8 (infoRecords .standard .zero)).cfg.valueOrder (.setU8 (hex [0x61]) 9) = some ⟨.u8,
        (hex [0x61]), (hex [0x09])⟩ ∧
      (∀ q ∈ (bounded 8 (infoRecords .standard .zero)).x, q.key ≠ hex [0x61]) ∧
      (bounded 8 (infoRecords .standard .zero)).cfg.storeMaxRecords = some (bounded 8 (infoRecords .standard
        .zero)).x.length := by decide

theorem test_witness_GetReadsTheFirstMatch :
    (∀ q ∈ (holding abc).x, q.key ≠ hex [0x7A]) ∧
      (holding abc).x = abc.take 1 ++ ⟨.u8, hex [0x62], hex [0x02]⟩ :: abc.drop 2 ∧
      (∀ q ∈ abc.take 1, q.key ≠ hex [0x62]) ∧
      fixedWidth .u8 = some (hex [0x02]).length ∧
      (Tag.u16 ≠ .str ∧ fixedWidth .u16 ≠ some (hex [0x02]).length) := by decide

theorem test_witness_FindAnswersLowestIndex :
    (∀ q ∈ (holding abc).x, q.key ≠ []) ∧
      (holding abc).x = abc.take 1 ++ ⟨.u8, hex [0x62], hex [0x02]⟩ :: abc.drop 2 ∧
      (∀ q ∈ abc.take 1, q.key ≠ hex [0x62]) ∧
      StoreFits (holding abc).x ∧
      255 < (List.replicate 256 0x61#8).length := by decide

theorem test_witness_SetThenGetAnswersTheValue :
    setRecord (holding abc).cfg.valueOrder (.setI8 (List.replicate 255 0x61#8) (-128)) = some ⟨.i8,
      (List.replicate 255 0x61#8), [0x80]⟩ ∧
      setValue (.setI8 (List.replicate 255 0x61#8) (-128)) = some (.signed (-128)) ∧
      (List.replicate 255 0x61#8).length ≤ 255 ∧
      (holding abc).cfg.storeMaxRecords = none ∧
      KeysUnique (holding abc).x := by decide

theorem test_witness_SetKeepsStoreInvariants :
    setRecord (bounded 3 abc).cfg.valueOrder (.setU8 (hex [0x61]) 9) = some ⟨.u8, (hex [0x61]), (hex [0x09])⟩ ∧
      StoreFits (bounded 3 abc).x ∧
      KeysUnique (bounded 3 abc).x ∧
      StoreInBounds (bounded 3 abc).cfg (bounded 3 abc).x ∧
      ∃ t, exec (.setU8 (hex [0x61]) 9) (bounded 3 abc) = .next t := by
  refine ⟨by decide, by decide, by decide, by decide, _, rfl⟩

theorem test_witness_DecodeOfEncodeRestoresTheStore :
    (bounded 9 v20).cfg.tagCode.toList.Nodup ∧
      StoreFits (bounded 9 v20).x ∧
      StoreInBounds (bounded 9 v20).cfg (bounded 9 v20).x ∧
      exec .encode (bounded 9 v20) = .next { bounded 9 v20 with out := .bytes (encodeStore (bounded 9 v20).cfg v20) } := by
  refine ⟨by decide, by decide, by decide, rfl⟩

/-- V38. -/
theorem test_witness_EncodeOfDecodeRestoresTheBytes :
    ∃ t, exec (.decode (hex [0x08, 0x00, 0x00])) State.reset = .next t ∧ t.out = .status .ok := ⟨_, rfl, by decide⟩

/-- V35. -/
theorem test_witness_DecodeRejectsUnknownTag :
    Config.standard.tagCode.toList.Nodup ∧
      StoreFits abc ∧
      StoreInBounds .standard abc ∧
      ∀ t, tagCode .standard t ≠ 0x09#8 := by
  refine ⟨by decide, by decide, by decide, fun t => ?_⟩
  cases t <;> decide

theorem test_witness_DecodeRejectsTruncatedRecord :
    Config.standard.tagCode.toList.Nodup ∧
      StoreFits abc ∧
      recordFits ⟨.str, hex [0x73], hex [0x68, 0x69]⟩ = true ∧
      StoreInBounds .standard abc ∧
      0 < 1 ∧
      5 < (specRecord .standard ⟨.str, hex [0x73], hex [0x68, 0x69]⟩).length := by decide

theorem test_witness_DecodeRefusesExcessRecords :
    (bounded 8 []).cfg.tagCode.toList.Nodup ∧
      StoreFits v20 ∧
      (bounded 8 []).cfg.storeMaxRecords = some 8 ∧
      8 < v20.length ∧
      State.reset.cfg.storeMaxRecords = none ∧
      ∃ t, exec (.decode []) State.reset = .next t := by
  refine ⟨by decide, by decide, by decide, by decide, by decide, _, rfl⟩

theorem test_witness_RecordFormsAppend :
    (bounded 4 abc).cfg.storeMaxRecords ≠ some (bounded 4 abc).x.length ∧
      (bounded 3 abc).cfg.storeMaxRecords = some (bounded 3 abc).x.length := by decide

theorem test_witness_DecodeRunsItsRecordForms :
    (bounded 9 []).cfg.tagCode.toList.Nodup ∧
      StoreFits v20 ∧
      StoreInBounds (bounded 9 []).cfg v20 := by decide

theorem test_witness_RxByteSeeksTheMarkers :
    State.reset.rxState = .idle ∧
      { State.reset with rxState := .sawHeader }.rxState = .sawHeader ∧
      0xAB#8 ≠ 0xAA#8 ∧
      0xBA#8 ≠ 0xBB#8 := by decide

theorem test_witness_RxByteReadsTheDeclaredLength :
    (capacity 2 .sawPktid 0 [] 0).rxState = .sawPktid ∧
      (capacity 2 .waitLenLo 0 [] 0).rxState = .waitLenLo ∧
      3 = (capacity 2 .waitLenLo 0 [] 0).rxLen.toNat / 256 * 256 + (0x03#8).toNat ∧
      (3 < 4 ∨ (capacity 2 .waitLenLo 0 [] 0).cfg.rxMaxPayload < 3 - 4) ∧
      7 = (capacity 2 .waitLenLo 0 [] 0).rxLen.toNat / 256 * 256 + (0x07#8).toNat ∧
      (7 < 4 ∨ (capacity 2 .waitLenLo 0 [] 0).cfg.rxMaxPayload < 7 - 4) ∧
      (4 ≤ 4 ∧ 4 - 4 ≤ (capacity 2 .waitLenLo 0 [] 0).cfg.rxMaxPayload) ∧
      (4 ≤ 6 ∧ 6 - 4 ≤ (capacity 2 .waitLenLo 0 [] 0).cfg.rxMaxPayload) := by decide

theorem test_witness_RxByteReadsCommandAndPayload :
    4 ≤ (capacity 2 .waitCmd 4 [] 0).rxLen.toNat ∧
      (capacity 2 .waitCmd 4 [] 0).rxState = .waitCmd ∧
      4 ≤ (capacity 2 .waitPayload 5 [] 0).rxLen.toNat ∧
      (capacity 2 .waitPayload 5 [] 0).rxState = .waitPayload := by decide

theorem test_witness_RxByteReadsTheChecksum :
    (capacity 2 .waitChkHi 4 [] 0).rxState = .waitChkHi ∧
      (capacity 2 .waitChkLo 4 [] 0).rxState = .waitChkLo := by decide

theorem test_witness_RxByteReachesTheVerdict :
    (capacity 2 .waitTerm 4 [] 1).rxState = .waitTerm ∧
      specCrc (capacity 2 .waitTerm 4 [] 1).rxBuf ≠ (capacity 2 .waitTerm 4 [] 1).rxChk ∧
      specCrc (capacity 2 .waitTerm 5 [0x01] 0x1021).rxBuf = (capacity 2 .waitTerm 5 [0x01] 0x1021).rxChk ∧
      0xDC#8 ≠ 0xDD#8 := by decide

theorem test_witness_FramerIsQuietBeforeTheVerdict :
    (capacity 2 .waitLenLo 0 [] 0).rxState ≠ .waitTerm ∧
      (capacity 2 .waitPayload 5 [] 0).rxState ≠ .waitLenLo := by decide

theorem test_witness_FrameBytesRunTheirCommand :
    (capacity 2 .idle 0 [] 0).rxState = .idle ∧
      (hex [1, 2]).length ≤ 65531 ∧
      (hex [1, 2]).length ≤ (capacity 2 .idle 0 [] 0).cfg.rxMaxPayload := by decide

theorem test_witness_FramerCountsTheDeclaredLength :
    (capacity 2 .sawPktid 0 [] 0).rxState = .sawPktid ∧
      4 ≤ (0x00#8).toNat * 256 + (0x04#8).toNat ∧
      (0x00#8).toNat * 256 + (0x06#8).toNat - 4 ≤ (capacity 2 .sawPktid 0 [] 0).cfg.rxMaxPayload ∧
      (hex [1, 2, 3, 4, 5, 6]).length = (0x00#8).toNat * 256 + (0x06#8).toNat := by decide

theorem test_witness_SentFrameReproducesTheStore :
    (holding a7).cfg.tagCode.toList.Nodup ∧
      (bigEndian []).cfg.tagCode = (holding a7).cfg.tagCode ∧
      StoreFits (holding a7).x ∧
      StoreInBounds (bigEndian []).cfg (holding a7).x ∧
      (bigEndian []).rxState = .idle ∧
      ((holding a7).x.flatMap (specRecord (holding a7).cfg)).length ≤ (bigEndian []).cfg.rxMaxPayload ∧
      ∃ t, exec (.send 0x64) (holding a7) = .next t ∧ t.out = .status .ok := by
  refine ⟨by decide, by decide, by decide, by decide, by decide, by decide, _, rfl, by decide⟩

/-- A window running since 1000, the time having moved by `d`. -/
def window (d : Time) : State := { holding a7 with suppress := true, tStop := 1000, now := 1000, timeAdvance := [d] }

theorem test_witness_GetInfoTransmitsTheDescriptor :
    (window 3999).cfg.Wf ∧
      (window 3999).desc.Wf ∧
      (readTime (window 3999)).suppress = true ∧
      ((readTime (window 3999)).now - (window 3999).tStop).toNat < 4000 ∧
      4000 ≤ ((readTime (window 4000)).now - (window 4000).tStop).toNat ∧
      (readTime State.reset).suppress = false := by decide

theorem test_witness_StopDataStartsTheWindow :
    (∃ t, exec (.send 0x64) (window 4000) = .next t ∧ (window 4000).suppress = true ∧ t.suppress = false) ∧
      (∃ t, exec (.getInfo []) (window 4000) = .next t ∧ t.suppress = false) ∧
      (∃ t, exec (.rxByte 0xDD) { window 4000 with rxState := .waitTerm, curCmd := 0x50 } = .next t ∧ t.suppress = false) ∧
      (∃ t, exec .poll { window 4000 with rxState := .waitTerm, curCmd := 0x50, rxFifo := [0xDD] } =
        .next t ∧ t.suppress = false) ∧
      (∃ t, step { window 4000 with turns := [.host], hostPort := [0x41, 0x64] } = .next t ∧ t.suppress = false) ∧
      ∃ t, step { window 0 with turns := [.reset] } = .next t ∧ t.suppress = false := by
  refine ⟨⟨_, rfl, by decide⟩, ⟨_, rfl, by decide⟩, ⟨_, rfl, by decide⟩, ⟨_, rfl, by decide⟩, ⟨_, rfl, by decide⟩,
    _, rfl, by decide⟩

theorem test_witness_SendDataHasThreeCases :
    a7 ≠ [] ∧
      Config.standard.tagCode.toList.Nodup ∧
      StoreFits a7 ∧
      StoreInBounds State.reset.cfg a7 ∧
      (∃ t, exec (.decode (hex [0x01, 0x01, 0x61, 0x07])) State.reset = .next t ∧ t.out = .status .ok) ∧
      ∃ t, exec (.decode (hex [0x03])) State.reset = .next t ∧ t.out = .status .decodeOutOfRange := by
  refine ⟨by decide, by decide, by decide, by decide, ⟨_, rfl, by decide⟩, _, rfl, by decide⟩

/-- A store whose encoding is `n` string Records of 257 bytes. -/
def strings (n : Nat) : State := holding (List.replicate n ⟨.str, [], List.replicate 254 0⟩)

theorem test_witness_SendFollowsTheTransmitPath :
    (readTime (window 3999)).suppress = true ∧
      ((readTime (window 3999)).now - (window 3999).tStop).toNat < 4000 ∧
      4000 ≤ ((readTime (window 4000)).now - (window 4000).tStop).toNat ∧
      (readTime (strings 255)).suppress = false ∧
      65531 < ((strings 255).x.flatMap (specRecord (strings 255).cfg)).length ∧
      ((strings 254).x.flatMap (specRecord (strings 254).cfg)).length ≤ 65531 := by
  refine ⟨by decide, by decide, by decide, by decide, ?_, ?_⟩ <;>
    simp [strings, holding, specRecord, List.length_flatMap, -List.reduceReplicate]

theorem test_witness_SuppressionLastsTheWindow :
    { holding a7 with timeAdvance := [1000, 3999] }.timeAdvance = 1000 :: 3999 :: [] ∧
      (3999 : Time).toNat < 4000 ∧
      4000 ≤ (4000 : Time).toNat ∧
      ((holding a7).x.flatMap (specRecord (holding a7).cfg)).length ≤ 65531 := by decide

theorem test_witness_RxEmptyClearsTheReadLatch :
    { State.reset with readFlag := true }.readFlag = true ∧
      State.reset.readFlag = false := by decide

theorem test_witness_PollConsumesEveryPendingByte :
    State.reset.rxFifo = [] ∧
      { State.reset with rxFifo := [0xAA] }.cfg.Wf ∧
      { State.reset with rxFifo := [0xAA] }.rxFifo ≠ [] := by decide

theorem test_witness_LatchClearsOnlyWhenReadAndIdle :
    { holding a7 with dataAvailable := true }.dataAvailable = true ∧
      { holding a7 with dataAvailable := true }.readFlag = false ∧
      ∃ r ∈ { holding a7 with dataAvailable := true }.x, r.key = hex [0x61] := by decide

theorem test_witness_LatchAndReadFlagWriters :
    (∃ t, exec .encode (holding a7) = .next t) ∧
      (∀ p, Instr.encode ≠ .sendData p) ∧
      (∀ b, Instr.encode ≠ .rxByte b) ∧
      Instr.encode ≠ .poll ∧
      Instr.encode ≠ .rxEmpty ∧
      ∀ u k, Instr.encode ≠ getInstr u k := by
  refine ⟨⟨_, rfl⟩, by simp, by simp, by simp, by simp, fun u k => ?_⟩
  cases u <;> simp [getInstr]

theorem test_witness_ErrorBitsAreSticky :
    ∃ t, step { State.reset with err := 0b0001, hostPort := [0x44], turns := [.host] } = .next t ∧ 0b0001#4 &&& t.err ≠ 0b0001#4 := ⟨_, rfl, by decide⟩

theorem test_witness_HostOperationsLeaveTheFramerAlone :
    spaceOf (.send 0x64) = .hostOp ∧
      Instr.send 0x64 ≠ .poll ∧
      ∃ t, exec (.send 0x64) (holding a7) = .next t := by
  refine ⟨by decide, by decide, _, rfl⟩

theorem test_witness_OtherCommandsAreIgnored :
    (∀ c ∈ hex [0x00, 0x4F, 0x51, 0x63, 0x65, 0x68, 0x6A, 0x71, 0x73, 0xFF],
        c ≠ 0x50#8 ∧ c ≠ 0x64#8 ∧ c ≠ 0x69#8 ∧ c ≠ 0x72#8) := by decide

theorem test_witness_DescSetWritesItsField :
    (List.replicate 255 0x61#8).length ≤ 255 ∧
      255 < (List.replicate 256 0x61#8).length := by decide

theorem test_witness_StepRunsTheDecodedInstruction :
    State.reset.cfg.Wf ∧
      { State.reset with turns := [.host], hostPort := [0x41, 0x69, 0x21] }.hostPort ≠ [] ∧
      decode .standard .hostOp [0x41, 0x69, 0x21] = .ok (.send 0x69, [0x21]) ∧
      { State.reset with turns := [.receive], rxFifo := [0xAA] }.rxFifo = 0xAA :: [] ∧
      { State.reset with turns := [.receive] }.rxFifo = [] := by decide

/-- 44_commands.md R259 (d): a bound of 7 is refused. -/
theorem test_witness_StepsWithoutInstruction :
    { State.reset with turns := [.link [0xAA]] }.turns = .link [0xAA] :: [] ∧
      { State.reset with turns := [.host] }.hostPort = [] ∧
      State.reset.turns = [] ∧
      State.reset.cfg.Wf ∧
      ¬ (bounded 7 []).cfg.Wf := by decide

theorem test_witness_ResetRestoresEveryRegister :
    (bounded 8 abc).cfg.Wf ∧
      { bounded 8 abc with turns := [.reset] }.turns = .reset :: [] := by decide

theorem test_witness_InvalidOperationsAreRefused :
    State.reset.cfg.Wf ∧
      { State.reset with turns := [.host], hostPort := [0x09] }.turns = .host :: [] ∧
      { State.reset with turns := [.host], hostPort := [0x09] }.hostPort = 0x09 :: [] ∧
      ¬ (0x09#8).toNat ≤ 0x08 := by decide

theorem test_witness_StepKeepsSoundState :
    SoundState { capacity 2 .waitPayload 6 [0x01] 0 with turns := [.receive], rxFifo := [0x02] } ∧
      ∃ t, step { capacity 2 .waitPayload 6 [0x01] 0 with turns := [.receive], rxFifo := [0x02] } = .next t := by
  refine ⟨by decide, _, rfl⟩

theorem test_witness_EveryTransmittedFrameIsWellFormed :
    ∃ t, step { holding a7 with turns := [.host], hostPort := [0x41, 0x64] } = .next t ∧ t.txLog ≠ [] := ⟨_, rfl, by decide⟩

theorem test_witness_DecodeOfEncodeIsTheInstruction :
    Config.standard.tagCode.toList.Nodup ∧
      wellFormed .standard (.other 0x51 (hex [0xAA])) = true ∧
      wellFormed .standard (.recStr (List.replicate 255 0x61#8) (List.replicate 255 0x61#8)) = true ∧
      wellFormed .standard (.crcCalc (hex [1]) 0 4294967295) = true := by decide

theorem test_witness_EachEncodingHasOneMeaning :
    decode .standard .frame (hex [0xAA, 0xBB, 0x00, 0x04, 0x72, 0x00, 0x00, 0xDD, 0x0F]) = .ok (.stopData [],
      [0x0F]) := by decide

end Sys2Proof.Tests
end

section
/-! The table-driven checksum against the bit-serial one (40_crc.md R133 to R135), and `CRC_CALC` (R136). -/

namespace Sys2Proof.Machine

/-! ### Bits of a joined half-word -/

theorem joinBytes_getMsbD_of_lt (h l : Byte) {k : Nat} (hk : k < 8) : (joinBytes h l).getMsbD k = h.getLsbD (7 - k) := by
  have happend : (joinBytes h l).getMsbD k = h.getMsbD k :=
    BitVec.getMsbD_append.trans (if_neg (Nat.not_le.mpr hk))
  rw [happend, BitVec.getMsbD_eq_getLsbD, decide_eq_true hk, Bool.true_and]

theorem joinBytes_xor_joinBytes (h l h' l' : Byte) :
    joinBytes h l ^^^ joinBytes h' l' = joinBytes (h ^^^ h') (l ^^^ l') := BitVec.xor_append

theorem joinBytes_shiftLeft_eight (h l : Byte) : joinBytes h l <<< 8 = joinBytes l 0x00#8 := by
  apply BitVec.eq_of_toNat_eq
  rw [BitVec.toNat_shiftLeft, joinBytes_toNat, joinBytes_toNat, Nat.shiftLeft_eq, BitVec.toNat_ofNat]
  omega

/-! ### The bit-serial update as the table's construction -/

/-- The register's leading bit cancels against the message bit, so a round of R134 on `x ^^^ u` that takes in the leading
bit of `u` is a round of the table's construction (R131) on `x`, with `u` shifted beside it. -/
theorem crcShiftBit_xor_msb (x u : Half) : crcShiftBit (x ^^^ u) u.msb = tableShift x ^^^ (u <<< 1) := by
  have hfb : ((x ^^^ u).msb ^^ u.msb) = x.msb := by rw [BitVec.msb_xor, Bool.xor_assoc, Bool.xor_self, Bool.xor_false]
  unfold crcShiftBit tableShift
  rw [hfb, BitVec.shiftLeft_xor_distrib]
  split
  · rw [BitVec.xor_assoc, BitVec.xor_assoc, BitVec.xor_comm (u <<< 1)]
  · rfl

/-- `n` rounds that take in the leading bits of `u`, on `x ^^^ u`. -/
theorem foldl_crcShiftBit_xor (x u : Half) (n : Nat) :
    (List.range n).foldl (fun c k => crcShiftBit c (u.getMsbD k)) (x ^^^ u) = Nat.repeat tableShift n x ^^^ (u <<< n) := by
  induction n with
  | zero => simp [Nat.repeat]
  | succ n ih =>
    have hbit : u.getMsbD n = (u <<< n).msb := by rw [BitVec.msb_eq_getMsbD_zero, BitVec.getMsbD_shiftLeft, Nat.zero_add]
    rw [List.range_succ, List.foldl_append, ih, List.foldl_cons, List.foldl_nil, hbit, crcShiftBit_xor_msb,
      ← BitVec.shiftLeft_add]
    rfl

/-- The message bits of `crc_step_serial` (R134) are the leading bits of any half-word whose high byte is `b`. -/
theorem crcStepSerial_eq_foldl_joinBytes (c : Half) (b l : Byte) :
    crcStepSerial c b = (List.range 8).foldl (fun c k => crcShiftBit c ((joinBytes b l).getMsbD k)) c := by
  calc crcStepSerial c b
      = (List.range 8).foldl (fun c k => crcShiftBit c (b.getLsbD (7 - k))) c := rfl
    _ = _ := List.foldl_ext _ _ _ fun c k hk => by rw [joinBytes_getMsbD_of_lt b l (List.mem_range.mp hk)]

/-- An 8-bit index always finds its entry (R140). -/
theorem crcLookup_eq_crcTableEntry (i : Byte) : crcLookup i = crcTableEntry i := by
  simp [crcLookup, crcTable, List.getD_eq_getElem?_getD, i.isLt]

/-- The register, split into the table index's share (R133) and a rest that begins with the message byte. -/
theorem joinBytes_index_xor_joinBytes (c : Half) (b : Byte) :
    joinBytes (hiByte c ^^^ b) 0x00#8 ^^^ joinBytes b (loByte c) = c := by
  rw [joinBytes_xor_joinBytes, BitVec.xor_assoc, BitVec.xor_self, BitVec.xor_zero, BitVec.zero_xor,
    joinBytes_hiByte_loByte]

theorem joinBytes_loByte_shiftLeft_eight (c : Half) (b : Byte) : joinBytes b (loByte c) <<< 8 = c <<< 8 := by
  calc joinBytes b (loByte c) <<< 8
      = joinBytes (hiByte c) (loByte c) <<< 8 := by rw [joinBytes_shiftLeft_eight, joinBytes_shiftLeft_eight]
    _ = c <<< 8 := by rw [joinBytes_hiByte_loByte]

/-- R135: the table-driven update is the bit-serial one. -/
theorem crcStep_eq_crcStepSerial (c : Half) (b : Byte) : crcStep c b = crcStepSerial c b := by
  symm
  calc crcStepSerial c b
      = crcStepSerial (joinBytes (hiByte c ^^^ b) 0x00#8 ^^^ joinBytes b (loByte c)) b := by
        rw [joinBytes_index_xor_joinBytes]
    _ = crcTableEntry (hiByte c ^^^ b) ^^^ (joinBytes b (loByte c) <<< 8) := by
        rw [crcStepSerial_eq_foldl_joinBytes _ b (loByte c)]
        exact foldl_crcShiftBit_xor _ _ 8
    _ = crcStep c b := by
        rw [joinBytes_loByte_shiftLeft_eight, BitVec.xor_comm, ← crcLookup_eq_crcTableEntry]
        rfl

/-! ### The checksum and `CRC_CALC` -/

/-- The machine's checksum is the bit-serial one of every byte sequence. -/
theorem crc_eq_specCrc (m : Bytes) : crc m = specCrc m := by
  have hstep : crcStep = crcStepSerial := funext₂ crcStep_eq_crcStepSerial
  rw [crc, specCrc, hstep, BitVec.xor_zero]

theorem exec_crcCalc (bytes : Bytes) (start stop : Nat) (s : State) :
    exec (.crcCalc bytes start stop) s = execCrcCalc bytes start stop s := rfl

/-- Settles O3: the machine takes the range from the other end (`take` before `drop`), and its table-driven checksum is
the bit-serial one. -/
theorem crcCalcAnswersChecksumOfRange : Obligations.CrcCalcAnswersChecksumOfRange := by
  intro bytes start stop s
  rw [exec_crcCalc, execCrcCalc]
  constructor
  · intro hrange
    rw [if_pos hrange, List.drop_take, crc_eq_specCrc]
    rfl
  · intro hrange
    rw [if_neg hrange]
    rfl

end Sys2Proof.Machine
end

section
/-! The Typed Record Store: what `SET`, `GET`, `FIND` and `CLEAR` answer and write (41_record_store.md R151 to R178). -/

namespace Sys2Proof.Machine

/-! ### CLEAR and FIND -/

theorem exec_clear (s : State) : exec .clear s = .next { s with x := [], out := .silent } := rfl

/-- Settles O14: the equation of `CLEAR`. -/
theorem clearEmptiesTheStore : Obligations.ClearEmptiesTheStore := exec_clear

theorem exec_find (k : Bytes) (s : State) : exec (.find k) s = .next { s with out := .index (findKey s.x k) } := rfl

/-- Under INV-WIDTH a key over 255 bytes is no Record's key (R152). -/
theorem StoreFits.key_ne {x : List Record} (hx : StoreFits x) {k : Bytes} (hk : 255 < k.length) : ∀ q ∈ x, q.key ≠ k := by
  rintro q hq rfl
  exact Nat.not_le.mpr hk (recordFits_key (hx q hq))

theorem exec_find_absent {k : Bytes} {s : State} (h : ∀ q ∈ s.x, q.key ≠ k) :
    exec (.find k) s = .next { s with out := .index none } := by
  rw [exec_find, findKey_eq_none.mpr h]

/-- Settles O13: an absent key finds nothing, a present one its first Record, and an oversize key is always absent. -/
theorem findAnswersLowestIndex : Obligations.FindAnswersLowestIndex := by
  intro k s
  refine ⟨exec_find_absent, ?_, fun hfits hlong => exec_find_absent (hfits.key_ne hlong)⟩
  rintro pre post r hx hpre rfl
  rw [exec_find, hx, findKey_append hpre]

/-! ### SET -/

theorem setField_of_ok {r : Record} {s : State} {x : List Record} (h : storeSet s.cfg r s.x = .ok x) :
    setField r s = { s with x := x, out := .status .ok } := by
  rw [setField, h]
  rfl

theorem setField_of_error {r : Record} {s : State} {e : Status} (h : storeSet s.cfg r s.x = .error e) :
    setField r s = { s with out := .status e } := by
  rw [setField, h]
  rfl

theorem storeSet_full {cfg : Config} {r : Record} {x : List Record} (h : Settable r) (ha : ∀ q ∈ x, q.key ≠ r.key)
    (hfull : cfg.storeMaxRecords = some x.length) : storeSet cfg r x = .error .storeFull := by
  have hfull : storeIsFull cfg x = true := by simp [storeIsFull, hfull]
  rw [storeSet_absent h ha, if_pos hfull]

/-- Within the sizes of R155, only want of room refuses a `SET` (R156). -/
theorem storeSet_error_of_settable {cfg : Config} {r : Record} {x : List Record} {e : Status} (h : Settable r)
    (he : storeSet cfg r x = .error e) : e = .storeFull := by
  obtain ha | ⟨pre, q, post, rfl, hpre, hq⟩ := key_cases x r.key
  · rw [storeSet_absent h ha] at he
    split at he
    · exact (Except.error.inj he).symm
    · cases he
  · rw [storeSet_present h hpre hq] at he
    split at he <;> cases he

/-- Settles O10: the store splits at the first Record with the key, and its tag decides between the two places. -/
theorem setPositionLaw : Obligations.SetPositionLaw := by
  intro i r q pre post s hi hkey hstr hx hpre hq
  have hset := storeSet_present (cfg := s.cfg) (post := post) ⟨hkey, hstr⟩ hpre hq
  rw [← hx] at hset
  rw [exec_of_setRecord hi]
  constructor
  · intro htag
    rw [if_pos htag] at hset
    rw [setField_of_ok hset]
  · intro htag
    rw [if_neg htag] at hset
    rw [setField_of_ok hset]

/-- Settles O11: each refusal is `storeSet`'s; where both sizes are allowed, the answer is OK or `StoreFull`. -/
theorem setRefusesOversizeAndFull : Obligations.SetRefusesOversizeAndFull := by
  intro i r s hi
  rw [exec_of_setRecord hi]
  refine ⟨fun hlong => ?keyTooLong, fun hkey hstr hlong => ?valueTooLong, fun hkey hstr habsent hfull => ?storeFull,
    fun hkey hstr => ⟨setField r s, rfl, ?sizesAllowed⟩⟩
  case keyTooLong => rw [setField_of_error (storeSet_keyTooLong hlong)]
  case valueTooLong => rw [setField_of_error (storeSet_valueTooLong hkey hstr hlong)]
  case storeFull => rw [setField_of_error (storeSet_full ⟨hkey, hstr⟩ habsent hfull)]
  case sizesAllowed =>
    obtain ⟨y, -, hs⟩ | ⟨e, he, hs⟩ := setField_cases r s
    · simp [hs]
    · obtain rfl := storeSet_error_of_settable ⟨hkey, hstr⟩ he
      simp [hs]

/-! ### GET -/

theorem ordValue_lt (o : ByteOrder) (p : Bytes) : ordValue o p < 256 ^ p.length := by
  cases o with
  | little => exact leValue_lt p
  | big => simpa [ordValue, beValue] using leValue_lt p.reverse

/-- The number of a two's-complement pattern, as R170, R172 and R174 write it. -/
theorem toInt_ofNat_eq_signedNumber {n u : Nat} (hn : 0 < n) (hu : u < 2 ^ n) :
    (BitVec.ofNat n u).toInt = signedNumber n u := by
  have hpow : 2 ^ n = 2 * 2 ^ (n - 1) := by rw [← Nat.pow_succ', Nat.succ_eq_add_one, Nat.sub_add_cancel hn]
  rw [BitVec.toInt_eq_toNat_cond, BitVec.toNat_ofNat, Nat.mod_eq_of_lt hu, signedNumber]
  have hhalf : 2 * u < 2 ^ n ↔ u < 2 ^ (n - 1) := by omega
  simp only [hhalf, Nat.cast_pow, Nat.cast_ofNat]

theorem specDefault_eq_defaultOf (t : Tag) : specDefault t = defaultOf t := by
  cases t <;> rfl

theorem eq_str_of_fixedWidth_none {t : Tag} (h : fixedWidth t = none) : t = .str := by
  cases t <;> simp [fixedWidth] at h ⊢

/-- The payload has the width that `GET.<T>` asks for; a string's is any (R157). -/
def WidthMatches (t : Tag) (p : Bytes) : Prop := t = .str ∨ fixedWidth t = some p.length

theorem WidthMatches.length_eq {t : Tag} {p : Bytes} {w : Nat} (h : WidthMatches t p) (hw : fixedWidth t = some w) :
    p.length = w := by
  obtain rfl | hp := h
  · cases hw
  · exact Option.some.inj (hp.symm.trans hw)

theorem specValue_eq_valueOf (o : ByteOrder) {t : Tag} {p : Bytes} (h : WidthMatches t p) :
    specValue o t p = valueOf o t p := by
  have hsigned : ∀ w, 0 < w → fixedWidth t = some w →
      (BitVec.ofNat (8 * w) (ordValue o p)).toInt = signedNumber (8 * w) (ordValue o p) := by
    intro w hw ht
    refine toInt_ofNat_eq_signedNumber (by omega) ?_
    rw [pow_mul, ← h.length_eq ht]
    exact ordValue_lt o p
  cases t <;> simp only [specValue, valueOf, weighBytes_eq]
  case i8 => rw [hsigned 1 (by decide) rfl]
  case i16 => rw [hsigned 2 (by decide) rfl]
  case i32 => rw [hsigned 4 (by decide) rfl]

theorem readRecord_of_widthMatches (o : ByteOrder) {t : Tag} {p : Bytes} (h : WidthMatches t p) :
    readRecord o t p = .reading .ok (valueOf o t p) := by
  unfold readRecord
  split
  · rfl
  · next w hw => rw [if_pos (h.length_eq hw)]

theorem readRecord_of_not_widthMatches (o : ByteOrder) {t : Tag} {p : Bytes} (h : ¬ WidthMatches t p) :
    readRecord o t p = .reading .typeSizeMismatch (defaultOf t) := by
  unfold readRecord
  split
  · next hw => exact absurd (.inl (eq_str_of_fixedWidth_none hw)) h
  · next w hw => rw [if_neg fun hp : p.length = w => h (.inr (by rw [hw, hp]))]

/-- Settles O12: an absent key answers the default; a present one is read from its first Record, by width alone. -/
theorem getReadsTheFirstMatch : Obligations.GetReadsTheFirstMatch := by
  intro t k s
  rw [exec_getInstr, specDefault_eq_defaultOf]
  refine ⟨fun habsent => by rw [getField_absent habsent], ?_⟩
  intro pre post r hx hpre hr
  rw [getField_present hx hpre hr]
  constructor
  · intro hwidth
    rw [readRecord_of_widthMatches _ hwidth, specValue_eq_valueOf _ hwidth]
  · intro hstr hwidth
    rw [readRecord_of_not_widthMatches _ (not_or.mpr ⟨hstr, hwidth⟩)]

end Sys2Proof.Machine
end

section
/-! The codec: what `DECODE` answers on good, unknown, cut-short and excess Records, and what `ENCODE` answers
(42_codec.md R200 to R206). -/

namespace Sys2Proof.Machine

/-! ### ENCODE -/

theorem exec_encode (s : State) : exec .encode s = .next { s with out := .bytes (encodeStore s.cfg s.x) } := rfl

theorem specRecord_length (cfg : Config) (r : Record) :
    (specRecord cfg r).length = 2 + r.key.length + r.payload.length + if r.tag = .str then 1 else 0 := by
  unfold specRecord
  split <;> (simp; omega)

/-- Settles O17: the answer is `encodeStore`'s, and its length is the sum of the Records' lengths. -/
theorem encodeConcatenatesRecords : Obligations.EncodeConcatenatesRecords := by
  intro s
  refine ⟨by rw [exec_encode, flatMap_specRecord], ?_⟩
  rw [List.length_flatMap]
  simp only [specRecord_length]

/-! ### DECODE on any bytes -/

/-- Settles O20: `decodeInto` answers OK, or one of three statuses with the store empty. -/
theorem failedDecodeLeavesTheStoreEmpty : Obligations.FailedDecodeLeavesTheStoreEmpty := by
  intro b s
  rw [exec_decode]
  obtain ⟨y, -, -, -, -, hs⟩ | ⟨e, -, he, hs⟩ := decodeInto_cases b s
  · exact ⟨y, .ok, by rw [hs], .inl rfl⟩
  · exact ⟨[], e, by rw [hs], .inr ⟨he, rfl⟩⟩

theorem exec_decode_of_error {b : Bytes} {s : State} {e : Status} (h : decodePayload s.cfg b = .error e) :
    exec (.decode b) s = .next { s with x := [], out := .status e } := by
  rw [exec_decode, decodeInto, h]
  rfl

/-- The loop fails where no Record can be parsed after good ones (R201). -/
theorem decodePayload_of_parseRecord_error {cfg : Config} (hc : cfg.tagCode.toList.Nodup) {ys : List Record}
    (hy : StoreFits ys) (hb : StoreInBounds cfg ys) {b : Byte} {rest : Bytes} {e : DecodeError}
    (h : parseRecord cfg (b :: rest) = .error e) :
    decodePayload cfg (encodeStore cfg ys ++ b :: rest) = .error (decodeStatus e) := by
  rw [decodePayload_encodeStore hc hy hb, List.length_cons, decodeLoop_succ _ _ _ (List.cons_ne_nil b rest), h]

/-! ### Unknown tags -/

theorem parseRecord_unknownTag {cfg : Config} {b : Byte} (h : tagOf? cfg b = none) (rest : Bytes) :
    parseRecord cfg (b :: rest) = .error (.unknownTag b) := by
  simp only [parseRecord, h]

/-- Settles O21: the tag is judged before the rest of the Record is looked at, and before the store's room. -/
theorem decodeRejectsUnknownTag : Obligations.DecodeRejectsUnknownTag := by
  intro ys b rest s hc hy hb htag
  have hparse := parseRecord_unknownTag (tagOf?_eq_none.mpr htag) rest
  rw [flatMap_specRecord]
  exact exec_decode_of_error (decodePayload_of_parseRecord_error hc hy hb hparse)

/-! ### Records cut short -/

theorem then_eq_error {α β : Type} {d : Decoded α} {f : α → Bytes → Decoded β} {e : DecodeError} (h : d.then f = .error e) :
    d = .error e ∨ ∃ a s, d = .ok (a, s) ∧ f a s = .error e := by
  cases d with
  | error e' => exact .inl (congrArg Except.error (Except.error.inj h))
  | ok p => exact .inr ⟨p.1, p.2, rfl, h⟩

theorem takeExactly_error {n : Nat} {s : Bytes} {e : DecodeError} (h : takeExactly n s = .error e) : e = .recordCutShort := by
  unfold takeExactly at h
  split at h
  · exact (Except.error.inj h).symm
  · cases h

theorem takeCounted_error {s : Bytes} {e : DecodeError} (h : takeCounted s = .error e) : e = .recordCutShort := by
  cases s with
  | nil => exact (Except.error.inj h).symm
  | cons n s => exact takeExactly_error h

theorem takeValue_error {t : Tag} {s : Bytes} {e : DecodeError} (h : takeValue t s = .error e) : e = .recordCutShort := by
  unfold takeValue at h
  split at h
  · exact takeExactly_error h
  · exact takeCounted_error h

/-- After a tag's code, a Record can only be cut short (R202). -/
theorem parseRecord_error_of_tagOf? {cfg : Config} {b : Byte} {t : Tag} (ht : tagOf? cfg b = some t) {rest : Bytes}
    {e : DecodeError} (h : parseRecord cfg (b :: rest) = .error e) : e = .recordCutShort := by
  simp only [parseRecord, ht] at h
  obtain hkey | ⟨k, s₁, -, h⟩ := then_eq_error h
  · exact takeCounted_error hkey
  · obtain hvalue | ⟨p, s₂, -, h⟩ := then_eq_error h
    · exact takeValue_error hvalue
    · cases h

/-- No Record parses from a fitting Record's encoding cut short: followed by the missing bytes, it would parse
to that Record, with bytes to spare. -/
theorem parseRecord_take_encodeRecord_ne_ok {cfg : Config} (hc : cfg.tagCode.toList.Nodup) {r : Record}
    (hr : recordFits r = true) {n : Nat} (hn : n < (encodeRecord cfg r).length) (a : Record × Bytes) :
    parseRecord cfg ((encodeRecord cfg r).take n) ≠ .ok a := by
  obtain ⟨q, rest⟩ := a
  intro h
  obtain ⟨hq, hbytes⟩ := parseRecord_ok h
  have hwhole : encodeRecord cfg q ++ (rest ++ (encodeRecord cfg r).drop n) = encodeRecord cfg r ++ [] := by
    rw [← List.append_assoc, ← hbytes, List.take_append_drop, List.append_nil]
  have hparse := parseRecord_encodeRecord hc hr []
  rw [← hwhole, parseRecord_encodeRecord hc hq] at hparse
  simp only [Except.ok.injEq, Prod.mk.injEq, List.append_eq_nil_iff] at hparse
  obtain ⟨-, -, hdrop⟩ := hparse
  exact absurd (List.drop_eq_nil_iff.mp hdrop) (Nat.not_le.mpr hn)

theorem parseRecord_take_encodeRecord {cfg : Config} (hc : cfg.tagCode.toList.Nodup) {r : Record}
    (hr : recordFits r = true) {n : Nat} (hn : n + 1 < (encodeRecord cfg r).length) :
    parseRecord cfg ((encodeRecord cfg r).take (n + 1)) = .error .recordCutShort := by
  have hok := parseRecord_take_encodeRecord_ne_ok hc hr hn
  cases h : parseRecord cfg ((encodeRecord cfg r).take (n + 1)) with
  | ok a => exact absurd h (hok a)
  | error e =>
    rw [encodeRecord_eq, List.take_succ_cons] at h
    rw [parseRecord_error_of_tagOf? (tagOf?_tagCode hc r.tag) h]

/-- Settles O22: the bytes that are left begin with the tag's code and spell no Record. -/
theorem decodeRejectsTruncatedRecord : Obligations.DecodeRejectsTruncatedRecord := by
  intro ys r n s hc hy hr hb hpos hn
  obtain ⟨n, rfl⟩ := Nat.exists_eq_add_one.mpr hpos
  rw [specRecord_eq] at hn ⊢
  rw [flatMap_specRecord]
  have hparse := parseRecord_take_encodeRecord hc hr hn
  rw [encodeRecord_eq, List.take_succ_cons] at hparse ⊢
  exact exec_decode_of_error (decodePayload_of_parseRecord_error hc hy hb hparse)

/-! ### Excess Records -/

theorem appendRecord_full {cfg : Config} {r : Record} {x : List Record} (h : cfg.storeMaxRecords = some x.length) :
    appendRecord cfg r x = .error .storeFull := by
  simp [appendRecord, storeIsFull, h]

theorem appendRecord_unbounded {cfg : Config} (h : cfg.storeMaxRecords = none) (r : Record) (x : List Record) :
    appendRecord cfg r x = .ok (x ++ [r]) := by
  simp [appendRecord, storeIsFull, h]

/-- A Record that fits, after as many as the store holds, is one too many, whatever follows it (R204). -/
theorem decodePayload_excess {cfg : Config} (hc : cfg.tagCode.toList.Nodup) {ys : List Record} (hy : StoreFits ys)
    (hfull : cfg.storeMaxRecords = some ys.length) {r : Record} (hr : recordFits r = true) (rest : Bytes) :
    decodePayload cfg (encodeStore cfg ys ++ (encodeRecord cfg r ++ rest)) = .error .storeFull := by
  have hb : StoreInBounds cfg ys := fun n hn => (Option.some.inj (hfull.symm.trans hn)).le
  have hparse := parseRecord_encodeRecord hc hr rest
  rw [decodePayload_encodeStore hc hy hb]
  rw [encodeRecord_eq, List.cons_append] at hparse ⊢
  rw [List.length_cons, decodeLoop_succ _ _ _ (List.cons_ne_nil _ _), hparse]
  simp only [appendRecord_full hfull]

/-- Without a bound no append fails, so the loop fails for its bytes only (R204). -/
theorem decodeLoop_ne_storeFull {cfg : Config} (hbound : cfg.storeMaxRecords = none) (n : Nat) (x : List Record) (s : Bytes) :
    decodeLoop cfg n x s ≠ .error .storeFull := by
  induction n generalizing x s with
  | zero => cases s <;> simp [decodeLoop]
  | succ n ih =>
    by_cases hs : s = []
    · simp [hs]
    rw [decodeLoop_succ cfg n x hs]
    cases parseRecord cfg s with
    | error e => cases e <;> simp [decodeStatus]
    | ok p =>
      simp only [appendRecord_unbounded hbound]
      exact ih _ _

/-- Settles O23: the sequence splits at the first excess Record; without a bound the loop never answers `StoreFull`. -/
theorem decodeRefusesExcessRecords : Obligations.DecodeRefusesExcessRecords := by
  constructor
  · intro ys rest m s hc hy hm hlt
    obtain ⟨pre, r, post, rfl, rfl⟩ : ∃ pre r post, ys = pre ++ r :: post ∧ pre.length = m :=
      ⟨ys.take m, ys[m], ys.drop (m + 1), by simp, by simp; omega⟩
    have hsplit : encodeStore s.cfg (pre ++ r :: post) ++ rest =
        encodeStore s.cfg pre ++ (encodeRecord s.cfg r ++ (encodeStore s.cfg post ++ rest)) := by
      simp [encodeStore]
    rw [flatMap_specRecord, hsplit]
    exact exec_decode_of_error (decodePayload_excess hc (fun q hq => hy q (by simp [hq])) hm (hy r (by simp)) _)
  · intro b s t hbound h hfull
    rw [exec_decode] at h
    cases h
    obtain ⟨y, -, -, -, -, hs⟩ | ⟨e, he, -, hs⟩ := decodeInto_cases b s
    · simp [hs] at hfull
    · obtain rfl : e = .storeFull := by simpa [hs] using hfull
      exact decodeLoop_ne_storeFull hbound _ _ _ he

end Sys2Proof.Machine
end

section
/-! The receive framer, one byte at a time: the rule of each `rx_state` (43_rx_framer.md R222 to R233). -/

namespace Sys2Proof.Machine

/-! ### Which rule a byte meets (43_rx_framer.md R221) -/

theorem exec_rxByte (b : Byte) (s : State) : exec (.rxByte b) s = .next (rxByte b s) := rfl

section
variable {s : State} (b : Byte)

theorem exec_rxByte_of_idle (h : s.rxState = .idle) : exec (.rxByte b) s = .next (rxIdle b s) := by
  rw [exec_rxByte, rxByte, h]

theorem exec_rxByte_of_sawHeader (h : s.rxState = .sawHeader) : exec (.rxByte b) s = .next (rxSawHeader b s) := by
  rw [exec_rxByte, rxByte, h]

theorem exec_rxByte_of_sawPktid (h : s.rxState = .sawPktid) : exec (.rxByte b) s = .next (rxSawPktid b s) := by
  rw [exec_rxByte, rxByte, h]

theorem exec_rxByte_of_waitLenLo (h : s.rxState = .waitLenLo) : exec (.rxByte b) s = .next (rxWaitLenLo b s) := by
  rw [exec_rxByte, rxByte, h]

theorem exec_rxByte_of_waitCmd (h : s.rxState = .waitCmd) : exec (.rxByte b) s = .next (rxWaitCmd b s) := by
  rw [exec_rxByte, rxByte, h]

theorem exec_rxByte_of_waitPayload (h : s.rxState = .waitPayload) :
    exec (.rxByte b) s = .next (rxWaitPayload b s) := by
  rw [exec_rxByte, rxByte, h]

theorem exec_rxByte_of_waitChkHi (h : s.rxState = .waitChkHi) : exec (.rxByte b) s = .next (rxWaitChkHi b s) := by
  rw [exec_rxByte, rxByte, h]

theorem exec_rxByte_of_waitChkLo (h : s.rxState = .waitChkLo) : exec (.rxByte b) s = .next (rxWaitChkLo b s) := by
  rw [exec_rxByte, rxByte, h]

theorem exec_rxByte_of_waitTerm (h : s.rxState = .waitTerm) : exec (.rxByte b) s = .next (rxWaitTerm b s) := by
  rw [exec_rxByte, rxByte, h]

end

/-! ### Markers -/

theorem rxIdle_headerMarker (s : State) : rxIdle headerMarker s = rxDone { s with rxState := .sawHeader } := if_pos rfl

theorem rxIdle_of_ne {b : Byte} (h : b ≠ headerMarker) (s : State) : rxIdle b s = raiseRx .framingMismatch s := if_neg h

theorem rxSawHeader_packetIdMarker (s : State) :
    rxSawHeader packetIdMarker s = rxDone { s with rxState := .sawPktid } := if_pos rfl

theorem rxSawHeader_of_ne {b : Byte} (h : b ≠ packetIdMarker) (s : State) :
    rxSawHeader b s = raiseRx .framingMismatch s := if_neg h

/-- Settles O26: in each of the two states, the byte is the marker awaited or it is not. -/
theorem rxByteSeeksTheMarkers : Obligations.RxByteSeeksTheMarkers := by
  intro b s
  refine ⟨?header, fun h hb => ?notHeader, ?packetId, fun h hb => ?notPacketId⟩
  case header =>
    rintro h rfl
    rw [exec_rxByte_of_idle _ h]
    exact congrArg _ (rxIdle_headerMarker s)
  case notHeader =>
    rw [exec_rxByte_of_idle _ h, rxIdle_of_ne hb]
    rfl
  case packetId =>
    rintro h rfl
    rw [exec_rxByte_of_sawHeader _ h]
    exact congrArg _ (rxSawHeader_packetIdMarker s)
  case notPacketId =>
    rw [exec_rxByte_of_sawHeader _ h, rxSawHeader_of_ne hb]
    rfl

/-! ### Two-byte fields, received high byte first (30_encoding.md R94, R95) -/

theorem joinBytes_eq_ofNat (h l : Byte) : joinBytes h l = BitVec.ofNat 16 (h.toNat * 256 + l.toNat) := by
  rw [← joinBytes_toNat, BitVec.ofNat_toNat, BitVec.setWidth_eq]

theorem joinBytes_zero_eq_ofNat (b : Byte) : joinBytes b 0x00#8 = BitVec.ofNat 16 (b.toNat * 256) := by
  simp [joinBytes_eq_ofNat]

theorem joinBytes_hiByte_toNat (v : Half) (b : Byte) :
    (joinBytes (hiByte v) b).toNat = v.toNat / 256 * 256 + b.toNat := by
  rw [joinBytes_toNat, hiByte_toNat]

theorem joinBytes_hiByte_eq_ofNat (v : Half) (b : Byte) :
    joinBytes (hiByte v) b = BitVec.ofNat 16 (v.toNat / 256 * 256 + b.toNat) := by
  rw [joinBytes_eq_ofNat, hiByte_toNat]

/-- Settles O29: each half of the checksum field, as numbers. -/
theorem rxByteReadsTheChecksum : Obligations.RxByteReadsTheChecksum := by
  intro b s
  constructor
  · intro h
    rw [exec_rxByte_of_waitChkHi b h, rxWaitChkHi, joinBytes_zero_eq_ofNat]
    rfl
  · intro h
    rw [exec_rxByte_of_waitChkLo b h, rxWaitChkLo, joinBytes_hiByte_eq_ofNat]
    rfl

/-! ### The declared length -/

/-- The lengths that R225 refuses: no room for the fields after the length, or a payload beyond the receive buffer. -/
def LengthRefused (cfg : Config) (len : Nat) : Prop := len < lenOverhead ∨ cfg.rxMaxPayload < len - lenOverhead

theorem not_lengthRefused {cfg : Config} {len : Nat} (hmin : lenOverhead ≤ len)
    (hcap : len - lenOverhead ≤ cfg.rxMaxPayload) : ¬ LengthRefused cfg len :=
  not_or.mpr ⟨Nat.not_lt.mpr hmin, Nat.not_lt.mpr hcap⟩

theorem rxWaitLenLo_of_refused {b : Byte} {s : State} (h : LengthRefused s.cfg (joinBytes (hiByte s.rxLen) b).toNat) :
    rxWaitLenLo b s = raiseRx .lengthError { s with rxLen := joinBytes (hiByte s.rxLen) b } := if_pos h

theorem rxWaitLenLo_of_not_refused {b : Byte} {s : State}
    (h : ¬ LengthRefused s.cfg (joinBytes (hiByte s.rxLen) b).toNat) :
    rxWaitLenLo b s = rxDone { s with rxLen := joinBytes (hiByte s.rxLen) b, rxState := .waitCmd } := if_neg h

/-- Settles O27: the joined bytes are the number that R225 tests, and the test has two outcomes. -/
theorem rxByteReadsTheDeclaredLength : Obligations.RxByteReadsTheDeclaredLength := by
  intro b s
  constructor
  · intro h
    rw [exec_rxByte_of_sawPktid b h, rxSawPktid, joinBytes_zero_eq_ofNat]
    rfl
  · intro len h hlen
    have hnum : (joinBytes (hiByte s.rxLen) b).toNat = len := (joinBytes_hiByte_toNat _ _).trans hlen.symm
    have hfield : joinBytes (hiByte s.rxLen) b = BitVec.ofNat 16 len := hlen ▸ joinBytes_hiByte_eq_ofNat _ _
    rw [exec_rxByte_of_waitLenLo b h]
    constructor
    · intro hbad
      rw [rxWaitLenLo_of_refused (hnum ▸ hbad), hfield]
      rfl
    · intro hmin hcap
      rw [rxWaitLenLo_of_not_refused (hnum ▸ not_lengthRefused hmin hcap), hfield]
      rfl

/-! ### The command byte and the payload -/

/-- With a checked length, "no payload" is the smallest length (43_rx_framer.md R225, R226). -/
theorem payloadLen_eq_zero_iff {s : State} (h : lenOverhead ≤ s.rxLen.toNat) :
    payloadLen s = 0 ↔ s.rxLen.toNat = lenOverhead := by
  unfold payloadLen
  omega

/-- Settles O28: the command's branch is on the length, the payload's on the length of the buffer with the byte. -/
theorem rxByteReadsCommandAndPayload : Obligations.RxByteReadsCommandAndPayload := by
  intro b s hlen
  constructor
  · intro h
    rw [exec_rxByte_of_waitCmd b h, rxWaitCmd]
    simp only [payloadLen_eq_zero_iff hlen]
    rfl
  · intro h
    rw [exec_rxByte_of_waitPayload b h, rxWaitPayload, List.length_append]
    rfl

/-! ### The verdict -/

/-- Settles O30: the verdict's three outcomes, with the machine's checksum read as the bit-serial one (40_crc.md R135). -/
theorem rxByteReachesTheVerdict : Obligations.RxByteReachesTheVerdict := by
  intro b s h
  rw [exec_rxByte_of_waitTerm b h, exec_wireInstr, ← crc_eq_specCrc]
  obtain ⟨hcrc, hs⟩ | ⟨hcrc, hb, hs⟩ | ⟨hcrc, hb, hs⟩ := rxWaitTerm_cases b s <;> rw [hs]
  · exact ⟨fun _ => rfl, fun hgood => absurd hgood hcrc, fun hgood => absurd hgood hcrc⟩
  · exact ⟨fun hbad => absurd hcrc hbad, fun _ _ => rfl, fun _ hterm => absurd hterm hb⟩
  · exact ⟨fun hbad => absurd hcrc hbad, fun _ hterm => absurd hb hterm, fun _ _ => rfl⟩

end Sys2Proof.Machine
end

section
/-! The wire commands: what `GET_INFO`, `SEND_DATA`, `SEND_INFO` and unassigned commands do in a good frame (44_commands.md
R251 to R259), and the transmit path that `GET_INFO` takes (45_tx_and_host.md R270). -/

namespace Sys2Proof.Machine

/-! ### Commands that are ignored -/

theorem exec_other (c : Byte) (p : Bytes) (s : State) :
    exec (.other c p) s =
      .next { s with rxLast := .packetComplete, lastCmd := c, rxState := .idle, out := .raised .ok } := rfl

theorem exec_sendInfo (p : Bytes) (s : State) :
    exec (.sendInfo p) s =
      .next { s with rxLast := .packetComplete, lastCmd := cmdSendInfo, rxState := .idle, out := .raised .ok } := rfl

/-- Settles O38: the verdict's writes are all there is; the model ignores `OTHER` whatever its command byte (log 18). -/
theorem otherCommandsAreIgnored : Obligations.OtherCommandsAreIgnored :=
  fun p s => ⟨exec_sendInfo p s, fun c _ _ _ _ => exec_other c p s⟩

/-! ### SEND_DATA -/

theorem exec_sendData (p : Bytes) (s : State) : exec (.sendData p) s = .next (onSendData p s) := rfl

theorem exec_sendData_nil (s : State) :
    exec (.sendData []) s =
      .next { s with rxLast := .packetComplete, lastCmd := cmdSendData, rxState := .idle, out := .raised .ok } := rfl

theorem exec_sendData_of_ok {p : Bytes} {s : State} {y : List Record} (hp : p ≠ []) (h : decodePayload s.cfg p = .ok y) :
    exec (.sendData p) s =
      .next { s with
        x := y, dataAvailable := true, readFlag := false,
        rxLast := .packetComplete, lastCmd := cmdSendData, rxState := .idle, out := .raised .ok } := by
  rw [exec_sendData]
  obtain ⟨hnil, -⟩ | ⟨z, -, hz, hs⟩ | ⟨e, -, he, -⟩ := onSendData_cases p s
  · exact absurd hnil hp
  · obtain rfl : z = y := Except.ok.inj (hz.symm.trans h)
    rw [hs]
    rfl
  · exact absurd (he.symm.trans h) (by simp)

/-- The three statuses with which `DECODE` fails write the same (60_exceptions.md R305, R308, R315). -/
theorem raiseRx_of_decode {e : Status} (h : e = .unknownTag ∨ e = .decodeOutOfRange ∨ e = .storeFull) (s : State) :
    raiseRx e s =
      { s with x := [], err := s.err ||| errDec, dataAvailable := false, rxLast := .decodeError, out := .raised e } := by
  obtain rfl | rfl | rfl := h <;> rfl

theorem exec_sendData_of_error {p : Bytes} {s : State} {e : Status} (hp : p ≠ []) (h : decodePayload s.cfg p = .error e) :
    exec (.sendData p) s =
      .next { s with
        x := [], err := s.err ||| errDec, dataAvailable := false,
        rxLast := .decodeError, lastCmd := cmdSendData, rxState := .idle, out := .raised e } := by
  rw [exec_sendData]
  obtain ⟨hnil, -⟩ | ⟨z, -, hz, -⟩ | ⟨e', -, he, hs⟩ := onSendData_cases p s
  · exact absurd hnil hp
  · exact absurd (hz.symm.trans h) (by simp)
  · obtain rfl : e' = e := Except.error.inj (he.symm.trans h)
    rw [hs, raiseRx_of_decode (decodeLoop_error h)]
    rfl

theorem encodeStore_ne_nil (cfg : Config) {ys : List Record} (h : ys ≠ []) : encodeStore cfg ys ≠ [] := by
  obtain ⟨r, rs, rfl⟩ := List.exists_cons_of_ne_nil h
  rw [encodeStore, List.flatMap_cons, encodeRecord_eq]
  exact List.cons_ne_nil _ _

theorem decodePayload_encodeStore_eq_ok {cfg : Config} (hc : cfg.tagCode.toList.Nodup) {ys : List Record}
    (hy : StoreFits ys) (hb : StoreInBounds cfg ys) : decodePayload cfg (encodeStore cfg ys) = .ok ys := by
  simpa using decodePayload_encodeStore hc hy hb []

/-- What `DECODE` answers is what `decodePayload` is. -/
theorem decodePayload_of_exec_decode {p : Bytes} {s t : State} (h : exec (.decode p) s = .next t) :
    decodePayload s.cfg p = .ok t.x ∧ t.out = .status .ok ∨
      ∃ e, decodePayload s.cfg p = .error e ∧ e ≠ .ok ∧ t.out = .status e := by
  rw [exec_decode] at h
  cases h
  obtain ⟨y, hy, -, -, -, hs⟩ | ⟨e, he, hstatus, hs⟩ := decodeInto_cases p s
  · exact .inl ⟨by rw [hs, hy], by rw [hs]⟩
  · refine .inr ⟨e, he, ?_, by rw [hs]⟩
    obtain rfl | rfl | rfl := hstatus <;> decide

/-- Settles O37: an empty payload is a no-op; for any other, the cases are those of the payload's decoding. -/
theorem sendDataHasThreeCases : Obligations.SendDataHasThreeCases := by
  intro p s
  refine ⟨fun ys hne hc hy hb => ?records, fun t hp hdec hout => ?decodable,
    fun t e hp hdec hout hfail => ?undecodable, ?empty⟩
  case records =>
    rw [flatMap_specRecord]
    exact exec_sendData_of_ok (encodeStore_ne_nil _ hne) (decodePayload_encodeStore_eq_ok hc hy hb)
  case decodable =>
    obtain ⟨hok, -⟩ | ⟨e, -, hfail, hout'⟩ := decodePayload_of_exec_decode hdec
    · exact exec_sendData_of_ok hp hok
    · exact absurd (Output.status.inj (hout'.symm.trans hout)) hfail
  case undecodable =>
    obtain ⟨-, hout'⟩ | ⟨e', herror, -, hout'⟩ := decodePayload_of_exec_decode hdec
    · exact absurd (Output.status.inj (hout.symm.trans hout')) hfail
    · obtain rfl := Output.status.inj (hout'.symm.trans hout)
      exact exec_sendData_of_error hp herror
  case empty =>
    rintro rfl
    exact exec_sendData_nil s

/-! ### The transmit path -/

theorem windowActive_eq_true {s : State} :
    windowActive s = true ↔ s.suppress = true ∧ (s.now - s.tStop).toNat < suppressWindow := by
  rw [windowActive, elapsed, Bool.and_eq_true, decide_eq_true_eq]

theorem windowActive_eq_false {s : State} :
    windowActive s = false ↔ s.suppress = false ∨ suppressWindow ≤ (s.now - s.tStop).toNat := by
  rw [windowActive, elapsed, Bool.and_eq_false_iff, decide_eq_false_iff_not, Nat.not_lt]

theorem transmit_of_windowActive {s : State} (h : windowActive s = true) (cmd : Byte) :
    transmit cmd s = (.txSuppressed, s) := if_pos h

theorem transmit_of_length_le {s : State} (h : windowActive s = false)
    (hlen : (encodeStore s.cfg s.x).length ≤ payloadMax) (cmd : Byte) :
    transmit cmd s =
      (.ok, { s with suppress := false, txLog := s.txLog ++ [encodeFrame cmd (encodeStore s.cfg s.x)] }) := by
  obtain ⟨hactive, -⟩ | ⟨-, hlong, -⟩ | ⟨-, -, hs⟩ := transmit_cases cmd s
  · exact absurd (hactive.symm.trans h) (by decide)
  · exact absurd hlen (Nat.not_le.mpr hlong)
  · exact hs

theorem hiByte_ofNat (n : Nat) : hiByte (BitVec.ofNat 16 n) = BitVec.ofNat 8 (n / 256) := by
  apply BitVec.eq_of_toNat_eq
  rw [hiByte_toNat, BitVec.toNat_ofNat, BitVec.toNat_ofNat]
  omega

theorem loByte_ofNat (n : Nat) : loByte (BitVec.ofNat 16 n) = BitVec.ofNat 8 n := by
  apply BitVec.eq_of_toNat_eq
  rw [loByte_toNat, BitVec.toNat_ofNat, BitVec.toNat_ofNat]
  omega

theorem hiByte_eq_ofNat (h : Half) : hiByte h = BitVec.ofNat 8 (h.toNat / 256) := by
  rw [← hiByte_ofNat, BitVec.ofNat_toNat, BitVec.setWidth_eq]

theorem loByte_eq_ofNat (h : Half) : loByte h = BitVec.ofNat 8 h.toNat := by
  rw [← loByte_ofNat, BitVec.ofNat_toNat, BitVec.setWidth_eq]

/-- The two-byte fields as quotients and remainders, the checksum bit-serial (30_encoding.md R94, R95). -/
theorem specFrame_eq_encodeFrame (cmd : Byte) (p : Bytes) : specFrame cmd p = encodeFrame cmd p := by
  rw [encodeFrame, crc_eq_specCrc, hiByte_ofNat, loByte_ofNat, hiByte_eq_ofNat, loByte_eq_ofNat]
  rfl

/-! ### GET_INFO -/

theorem infoRecords_eq_descriptorRecords (cfg : Config) (d : Descriptor) :
    infoRecords cfg d = descriptorRecords cfg d := by
  simp only [infoRecords, descriptorRecords, sliceBytes_eq, bytesU8, bytesU16, bytesU32, bytesStr]

theorem fixedWidth_le {t : Tag} {w : Nat} (h : fixedWidth t = some w) : w ≤ 8 := by
  cases t <;> simp [fixedWidth] at h <;> omega

/-- A fixed width stays below the bound on strings (30_encoding.md R100). -/
theorem payload_length_le_of_recordFits {r : Record} (h : recordFits r = true) : r.payload.length ≤ 255 := by
  have hp := recordFits_payload h
  unfold payloadFits at hp
  split at hp
  · next w hw =>
    have hwidth := fixedWidth_le hw
    have hlen : r.payload.length = w := by simpa using hp
    omega
  · simpa using hp

/-- Tag, key length and value length are a byte each; key and payload are at most 255 bytes (30_encoding.md R98). -/
theorem encodeRecord_length_le {cfg : Config} {r : Record} (h : recordFits r = true) :
    (encodeRecord cfg r).length ≤ 513 := by
  have hkey := recordFits_key h
  have hpayload := payload_length_le_of_recordFits h
  rw [← specRecord_eq, specRecord_length]
  split <;> omega

theorem encodeStore_length_le {cfg : Config} {x : List Record} (h : StoreFits x) :
    (encodeStore cfg x).length ≤ x.length * 513 := by
  have hlen : ∀ n ∈ x.map fun r => (encodeRecord cfg r).length, n ≤ 513 :=
    List.forall_mem_map.mpr fun r hr => encodeRecord_length_le (h r hr)
  simpa [encodeStore, List.length_flatMap] using List.sum_le_card_nsmul _ _ hlen

/-- The eight Records always fit a frame, so a `GET_INFO` response is never too long (44_commands.md R259). -/
theorem encodeStore_descriptorRecords_length_le {cfg : Config} {d : Descriptor} (hc : cfg.Wf) (hd : d.Wf) :
    (encodeStore cfg (descriptorRecords cfg d)).length ≤ payloadMax :=
  (encodeStore_length_le (descriptorRecords_fit hc hd)).trans (by simp [descriptorRecords, payloadMax])

/-- A good `GET_INFO` frame's state when its response comes to be sent: the time read, the store overwritten (R251). -/
def infoPending (s : State) : State :=
  { acceptFrame cmdGetInfo (readTime s) with x := descriptorRecords s.cfg s.desc }

@[simp] theorem infoPending_cfg (s : State) : (infoPending s).cfg = s.cfg := readTime_cfg s
@[simp] theorem infoPending_txLog (s : State) : (infoPending s).txLog = s.txLog := readTime_txLog s
@[simp] theorem infoPending_x (s : State) : (infoPending s).x = descriptorRecords s.cfg s.desc := rfl
@[simp] theorem infoPending_suppress (s : State) : (infoPending s).suppress = (readTime s).suppress := rfl
@[simp] theorem infoPending_now (s : State) : (infoPending s).now = (readTime s).now := rfl
@[simp] theorem infoPending_tStop (s : State) : (infoPending s).tStop = s.tStop := readTime_tStop s

/-- The time's read touches neither the verdict's registers nor the store. -/
theorem readTime_acceptFrame_store (c : Byte) (x : List Record) (s : State) :
    readTime { acceptFrame c s with x := x } = { acceptFrame c (readTime s) with x := x } := by
  cases h : s.timeAdvance with
  | nil =>
    rw [readTime_of_nil s h]
    exact readTime_of_nil _ h
  | cons d ds =>
    rw [readTime_of_cons s h]
    exact readTime_of_cons _ h

theorem exec_getInfo {s : State} (hc : s.cfg.Wf) (hd : s.desc.Wf) (p : Bytes) :
    exec (.getInfo p) s = .next (answer (.raised .ok) (transmit cmdSendInfo (infoPending s)).2) := by
  have hpending : readTime { acceptFrame cmdGetInfo s with x := descriptorStore s.cfg s.desc } = infoPending s := by
    rw [readTime_acceptFrame_store, descriptorStore_eq hc hd]
    rfl
  rw [← hpending]
  rfl

/-- Settles O35: the transmit path drops the response in an active window and otherwise sends it, as it is never too
long. -/
theorem getInfoTransmitsTheDescriptor : Obligations.GetInfoTransmitsTheDescriptor := by
  intro p s hc hd
  rw [exec_getInfo hc hd, infoRecords_eq_descriptorRecords, flatMap_specRecord, specFrame_eq_encodeFrame]
  constructor
  · intro hover
    have hwindow : windowActive (infoPending s) = false := by
      rw [windowActive_eq_false, infoPending_suppress, infoPending_now, infoPending_tStop]
      exact hover
    have hpayload : encodeStore (infoPending s).cfg (infoPending s).x =
        encodeStore s.cfg (descriptorRecords s.cfg s.desc) := by
      rw [infoPending_cfg, infoPending_x]
    have hlen := encodeStore_descriptorRecords_length_le hc hd
    rw [transmit_of_length_le hwindow (hpayload ▸ hlen), hpayload, infoPending_txLog]
    rfl
  · intro hsuppress hrunning
    have hwindow : windowActive (infoPending s) = true := by
      rw [windowActive_eq_true, infoPending_suppress, infoPending_now, infoPending_tStop]
      exact ⟨hsuppress, hrunning⟩
    rw [transmit_of_windowActive hwindow]
    rfl

end Sys2Proof.Machine
end

section
/-! `SEND` and the host's own operations: the empty poll's effect on the latch, the status operations, and the descriptor's
accessors (45_tx_and_host.md R270 to R282). -/

namespace Sys2Proof.Machine

/-! ### SEND -/

theorem transmit_of_lt_length {s : State} (h : windowActive s = false)
    (hlen : payloadMax < (encodeStore s.cfg s.x).length) (cmd : Byte) :
    transmit cmd s = (.txTooLong, { s with suppress := false }) := by
  obtain ⟨hactive, -⟩ | ⟨-, -, hs⟩ | ⟨-, hle, -⟩ := transmit_cases cmd s
  · exact absurd (hactive.symm.trans h) (by decide)
  · exact hs
  · exact absurd hlen (Nat.not_lt.mpr hle)

/-- `SEND` is the transmit path at the time just read; the path's status is answered (45_tx_and_host.md R270). -/
theorem exec_send_of_transmit {cmd : Byte} {s u : State} {e : Status} (h : transmit cmd (readTime s) = (e, u)) :
    exec (.send cmd) s = .next { u with out := .status e } := by
  change Host.Outcome.next (answer (.status (transmit cmd (readTime s)).1) (transmit cmd (readTime s)).2) = _
  rw [h]
  rfl

theorem encodeStore_readTime (s : State) :
    encodeStore (readTime s).cfg (readTime s).x = encodeStore s.cfg s.x := by
  rw [readTime_cfg, readTime_x]

/-- Settles O39: the window is judged first, at the time just read; once it is over, the store's encoded length decides. -/
theorem sendFollowsTheTransmitPath : Obligations.SendFollowsTheTransmitPath := by
  intro cmd s
  rw [flatMap_specRecord, specFrame_eq_encodeFrame, ← encodeStore_readTime, ← readTime_tStop s, ← readTime_txLog s]
  refine ⟨fun hsuppress hrunning => ?dropped, fun hover => ⟨fun hlong => ?tooLong, fun hshort => ?sent⟩⟩
  case dropped =>
    exact exec_send_of_transmit (transmit_of_windowActive (windowActive_eq_true.mpr ⟨hsuppress, hrunning⟩) cmd)
  case tooLong =>
    exact exec_send_of_transmit (transmit_of_lt_length (windowActive_eq_false.mpr hover) hlong cmd)
  case sent =>
    exact exec_send_of_transmit (transmit_of_length_le (windowActive_eq_false.mpr hover) hshort cmd)

/-! ### RX_EMPTY -/

theorem exec_rxEmpty (s : State) :
    exec .rxEmpty s =
      .next { s with dataAvailable := if s.readFlag then false else s.dataAvailable, out := .raised .ok } := rfl

/-- Settles O41: `read_flag` alone decides whether the latch is cleared or written back. -/
theorem rxEmptyClearsTheReadLatch : Obligations.RxEmptyClearsTheReadLatch := by
  intro s
  refine ⟨fun hread => ?_, fun hunread => ?_⟩
  · rw [exec_rxEmpty, hread, if_pos rfl]
  · rw [exec_rxEmpty, hunread, if_neg Bool.false_ne_true]

/-! ### AVAILABLE, STATUS_READ, ERR_CLEAR -/

theorem exec_available (s : State) : exec .available s = .next { s with out := .bit s.dataAvailable } := rfl

theorem exec_statusRead (s : State) : exec .statusRead s = .next { s with out := .word (statusWord s) } := rfl

theorem exec_errClear (s : State) : exec .errClear s = .next { s with err := 0, out := .silent } := rfl

/-- The less significant part of a concatenation has place 0, the other the place after its last bit. -/
theorem toNat_append_eq_add {n m : Nat} (x : BitVec n) (y : BitVec m) : (x ++ y).toNat = x.toNat * 2 ^ m + y.toNat := by
  rw [BitVec.toNat_append, ← Nat.shiftLeft_add_eq_or_of_lt y.isLt, Nat.shiftLeft_eq]

/-- The status word as a sum of its fields, each weighed by its place (45_tx_and_host.md R279). -/
theorem statusWord_toNat (s : State) :
    (statusWord s).toNat = s.suppress.toNat * 65536 + s.dataAvailable.toNat * 32768 +
      (rxLastCode s.rxLast).toNat * 4096 + s.err.toNat * 256 + s.lastCmd.toNat := by
  simp only [statusWord, toNat_append_eq_add, BitVec.toNat_ofBool]
  omega

/-- Settles O47: the codes of `rx_last` are 10_state.md R37's, one case for each of its six values. -/
theorem statusOperations : Obligations.StatusOperations := by
  intro s
  refine ⟨exec_available s, ⟨statusWord s, exec_statusRead s, ?_⟩, exec_errClear s⟩
  rw [statusWord_toNat]
  cases s.rxLast <;> rfl

/-! ### The device descriptor -/

theorem setDescriptorText_of_length_le {v : Bytes} (h : v.length ≤ strMax) (d : Descriptor) (s : State) :
    setDescriptorText v d s = setDescriptor d s := if_neg (Nat.not_lt.mpr h)

theorem setDescriptorText_of_lt_length {v : Bytes} (h : strMax < v.length) (d : Descriptor) (s : State) :
    setDescriptorText v d s = answer (.status .valueTooLong) s := if_pos h

theorem exec_descSet6 (v : Bytes) (s : State) :
    exec (.descSet6 v) s = .next (setDescriptorText v { s.desc with name := v } s) := rfl

theorem exec_descSet7 (v : Bytes) (s : State) :
    exec (.descSet7 v) s = .next (setDescriptorText v { s.desc with info := v } s) := rfl

/-- Settles O48: the six numbers are written as they are; the two strings pass the length test of R281 first. -/
theorem descSetWritesItsField : Obligations.DescSetWritesItsField := by
  intro h w b v s
  refine ⟨rfl, rfl, rfl, rfl, rfl, rfl, fun hshort => ?written, fun hlong => ?refused⟩
  case written =>
    rw [exec_descSet6, exec_descSet7, setDescriptorText_of_length_le hshort, setDescriptorText_of_length_le hshort]
    exact ⟨rfl, rfl⟩
  case refused =>
    rw [exec_descSet6, exec_descSet7, setDescriptorText_of_lt_length hlong, setDescriptorText_of_lt_length hlong]
    exact ⟨rfl, rfl⟩

/-- Settles O49: each of the eight operations is `answer` of its field, which writes the step's output only. -/
theorem descGetReadsItsField : Obligations.DescGetReadsItsField :=
  fun _ => ⟨rfl, rfl, rfl, rfl, rfl, rfl, rfl, rfl⟩

end Sys2Proof.Machine
end

section
/-! The codec's round trips, and the Record forms as rounds of `DECODE`'s loop (42_codec.md R191 to R209). -/

namespace Sys2Proof.Machine

/-! ### Round trips -/

theorem exec_decode_of_ok {b : Bytes} {s : State} {y : List Record} (h : decodePayload s.cfg b = .ok y) :
    exec (.decode b) s = .next { s with x := y, out := .status .ok } := by
  rw [exec_decode, decodeInto, h]
  rfl

/-- Settles O18: the loop over encoded fitting Records gives them back. -/
theorem decodeOfEncodeRestoresTheStore : Obligations.DecodeOfEncodeRestoresTheStore := by
  intro s t b hcfg hc hy hb henc
  have hbytes : encodeStore s.cfg s.x = b := by
    rw [exec_encode] at henc
    exact Output.bytes.inj (congrArg State.out (Host.Outcome.next.inj henc))
  rw [← hcfg] at hc hb hbytes
  subst hbytes
  exact exec_decode_of_ok (decodePayload_encodeStore_eq_ok hc hy hb)

/-- Settles O19: a sequence that `DECODE` accepts is the encoding of the store it leaves. -/
theorem encodeOfDecodeRestoresTheBytes : Obligations.EncodeOfDecodeRestoresTheBytes := by
  intro s t b hdec hout
  rw [exec_decode] at hdec
  cases hdec
  obtain ⟨y, -, -, -, hbytes, hs⟩ | ⟨e, -, he, hs⟩ := decodeInto_cases b s
  · rw [exec_encode, hs, ← hbytes]
  · rw [hs] at hout
    obtain rfl | rfl | rfl := he <;> cases hout

/-! ### The Record forms -/

theorem exec_recordInstr (r : Record) (s : State) : exec (recordInstr r) s = .next (appendField r s) := by
  obtain ⟨t, k, p⟩ := r
  cases t <;> rfl

theorem exec_recordInstr_of_room {s : State} (h : s.cfg.storeMaxRecords ≠ some s.x.length) (r : Record) :
    exec (recordInstr r) s = .next { s with x := s.x ++ [r], out := .status .ok } := by
  rw [exec_recordInstr]
  obtain ⟨-, hs⟩ | ⟨hfull, -⟩ := appendField_cases r s
  · rw [hs]
  · exact absurd (hfull.symm.trans (storeIsFull_eq_false.mpr h)) (by decide)

/-- Settles O24: the store has room for the Record or it is full. -/
theorem recordFormsAppend : Obligations.RecordFormsAppend := by
  intro r s
  refine ⟨fun hroom => exec_recordInstr_of_room hroom r, fun hfull => ?_⟩
  rw [exec_recordInstr]
  obtain ⟨hroom, -⟩ | ⟨-, hs⟩ := appendField_cases r s
  · exact absurd hfull (storeIsFull_eq_false.mp hroom)
  · rw [hs]

/-! ### Runs of instructions -/

theorem runAll_cons_of_next {i : Instr} {s t : State} (h : exec i s = .next t) (is : List Instr) :
    runAll (i :: is) s = runAll is t := by
  rw [runAll, h]

/-- A run of Record forms with room for them all appends them in order (42_codec.md R201, R205). -/
theorem runAll_recordInstr (ys : List Record) {s : State} (hout : s.out = .status .ok)
    (hroom : ∀ m ∈ s.cfg.storeMaxRecords, s.x.length + ys.length ≤ m) :
    runAll (ys.map recordInstr) s = .next { s with x := s.x ++ ys, out := .status .ok } := by
  induction ys generalizing s with
  | nil => rw [List.append_nil, ← hout]; rfl
  | cons r ys ih =>
    have hnotFull : s.cfg.storeMaxRecords ≠ some s.x.length := by
      intro hfull
      have := hroom _ hfull
      rw [List.length_cons] at this
      omega
    rw [List.map_cons, runAll_cons_of_next (exec_recordInstr_of_room hnotFull r), ih rfl, List.append_assoc]
    · rfl
    · intro m hm
      have := hroom m hm
      rw [List.length_cons] at this
      rw [List.length_append, List.length_singleton]
      omega

/-- Settles O25: `DECODE` of nothing empties the store, and each Record form is one round of the loop. -/
theorem decodeRunsItsRecordForms : Obligations.DecodeRunsItsRecordForms := by
  intro ys s hc hy hb
  have hempty : exec (.decode []) s = .next { s with x := [], out := .status .ok } := exec_decode_of_ok rfl
  rw [flatMap_specRecord, exec_decode_of_ok (decodePayload_encodeStore_eq_ok hc hy hb), runAll_cons_of_next hempty,
    runAll_recordInstr ys rfl fun m hm => by simpa using hb m hm]
  rfl

end Sys2Proof.Machine
end

section
/-! Decode and encode agree in each of the four spaces (30_encoding.md sections 2 to 6; operands in the model's form, log 2). -/

namespace Sys2Proof.Machine

/-! ### The frame -/

theorem lengthAccepted_of_payloadWf {cfg : Config} {p : Bytes} (h : payloadWf cfg p = true) :
    lengthAccepted cfg (p.length + lenOverhead) = true := by
  simp only [payloadWf, Bool.and_eq_true, decide_eq_true_eq] at h
  simp [lengthAccepted, h]

theorem decodeTrailer_checksum (cmd : Byte) (p rest : Bytes) :
    decodeTrailer cmd p (hiByte (crc p) :: loByte (crc p) :: terminatorMarker :: rest) = .ok (wireInstr cmd p, rest) := by
  simp [decodeTrailer]

theorem decodeBody_append (cmd : Byte) (p s : Bytes) :
    decodeBody (p.length + lenOverhead) (cmd :: (p ++ s)) = decodeTrailer cmd p s := by
  simp [decodeBody]

/-- A frame decodes to the wire command of its fields (30_encoding.md R91 to R97). -/
theorem decodeFrame_encodeFrame {cfg : Config} {p : Bytes} (h : payloadWf cfg p = true) (cmd : Byte) :
    decodeFrame cfg (encodeFrame cmd p) = .ok (wireInstr cmd p, []) := by
  have hfit : p.length ≤ payloadMax := by
    simp only [payloadWf, Bool.and_eq_true, decide_eq_true_eq] at h
    exact h.1
  have hlen : (BitVec.ofNat 16 (p.length + lenOverhead)).toNat = p.length + lenOverhead := by
    rw [BitVec.toNat_ofNat]
    exact Nat.mod_eq_of_lt (by unfold lenOverhead; unfold payloadMax at hfit; omega)
  simp only [encodeFrame, decodeFrame, List.cons_append, List.nil_append, ne_eq, not_true_eq_false, if_false,
    joinBytes_hiByte_loByte, hlen, lengthAccepted_of_payloadWf h, if_true]
  rw [decodeBody_append, decodeTrailer_checksum]

theorem wireInstr_other {cmd : Byte} (h : assignedCommand cmd = false) (p : Bytes) :
    wireInstr cmd p = .other cmd p := by
  simp only [assignedCommand, Bool.or_eq_false_iff, beq_eq_false_iff_ne] at h
  simp [wireInstr, h]

/-! ### The Record -/

theorem decodeRecord_encodeRecord {cfg : Config} (hc : cfg.tagCode.toList.Nodup) {r : Record} (h : recordFits r = true) :
    decodeRecord cfg (encodeRecord cfg r) = .ok (recordInstr r, []) := by
  have hparse := parseRecord_encodeRecord hc h []
  rw [List.append_nil] at hparse
  rw [decodeRecord, hparse, then_ok]

/-! ### The host operation -/

theorem takeNumber_beBytes_of_lt {w u : Nat} (h : u < 256 ^ w) (rest : Bytes) :
    takeNumber w (beBytes w u ++ rest) = .ok (u, rest) := by
  rw [takeNumber_beBytes, Nat.mod_eq_of_lt h]

/-- A pattern's number is read back in the pattern's own width (log 2). -/
theorem takeNumber_beBytes_toNat {n w : Nat} (hw : 2 ^ n = 256 ^ w) (v : BitVec n) :
    takeNumber w (beBytes w v.toNat) = .ok (v.toNat, []) := by
  simpa using takeNumber_beBytes_of_lt (hw ▸ v.isLt) []

theorem takeSeq_putSeq_nil (k : Bytes) : takeSeq (putSeq k) = .ok (k, []) := by
  simpa using takeSeq_putSeq k []

/-- The indices of `CRC_CALC` are four bytes each (log 2). -/
theorem decodeHostOp_encode_crcCalc {cfg : Config} {d : Bytes} {a b : Nat}
    (h : wellFormed cfg (.crcCalc d a b) = true) : decodeHostOp (encode cfg (.crcCalc d a b)) = .ok (.crcCalc d a b, []) := by
  simp only [wellFormed, portIndexMax, Bool.and_eq_true, decide_eq_true_eq] at h
  obtain ⟨ha, hb⟩ := h
  have hlast : takeNumber 4 (beBytes 4 b) = .ok (b, []) := by simpa using takeNumber_beBytes_of_lt (w := 4) hb []
  simp only [decodeHostOp, encode, decodeSelected, BitVec.reduceToNat, takeSeq_putSeq, then_ok,
    takeNumber_beBytes_of_lt (w := 4) ha, hlast]

/-- A selection code with its operands decodes to its operation (30_encoding.md R106): the operands are a sequence, a number,
two of them, or none. -/
theorem decodeHostOp_encode {cfg : Config} {i : Instr} (hspace : spaceOf i = .hostOp) (hwf : wellFormed cfg i = true) :
    decodeHostOp (encode cfg i) = .ok (i, []) := by
  cases i <;> cases hspace
  case crcCalc => exact decodeHostOp_encode_crcCalc hwf
  all_goals
    simp [decodeHostOp, encode, decodeSelected, takeSeq_putSeq, takeSeq_putSeq_nil, takeNumber_beBytes_toNat]

/-! ### Every instruction -/

theorem decodeFrame_encode {cfg : Config} {i : Instr} (hspace : spaceOf i = .frame) (hwf : wellFormed cfg i = true) :
    decodeFrame cfg (encode cfg i) = .ok (i, []) := by
  cases i <;> cases hspace
  case other =>
    simp only [wellFormed, Bool.and_eq_true, Bool.not_eq_true'] at hwf
    obtain ⟨hcmd, hp⟩ := hwf
    exact (decodeFrame_encodeFrame hp _).trans (by rw [wireInstr_other hcmd])
  all_goals exact decodeFrame_encodeFrame hwf _

theorem decodeRecord_encode {cfg : Config} (hc : cfg.tagCode.toList.Nodup) {i : Instr} (hspace : spaceOf i = .record)
    (hwf : wellFormed cfg i = true) : decodeRecord cfg (encode cfg i) = .ok (i, []) := by
  cases i <;> cases hspace
  all_goals exact decodeRecord_encodeRecord hc hwf

theorem decodeRx_encode {cfg : Config} {i : Instr} (hspace : spaceOf i = .rxStep) :
    decodeRx (encode cfg i) = .ok (i, []) := by
  cases i <;> cases hspace
  all_goals rfl

/-- Settles O58: by the instruction's space. -/
theorem decodeOfEncodeIsTheInstruction : Obligations.DecodeOfEncodeIsTheInstruction := by
  intro cfg i hc hwf
  cases hspace : spaceOf i with
  | frame => exact decodeFrame_encode hspace hwf
  | record => exact decodeRecord_encode hc hspace hwf
  | hostOp => exact decodeHostOp_encode hspace hwf
  | rxStep => exact decodeRx_encode hspace

end Sys2Proof.Machine
end

section
/-! What decodes is well formed and encodes back to the bytes consumed, in each of the four spaces (30_encoding.md sections 1
to 6; operands in the model's form, log 2). -/

namespace Sys2Proof.Machine

/-- What a decoder's answer should say of the bytes: a well-formed instruction of the space, spelt by the bytes consumed. -/
def Spells (cfg : Config) (space : Space) (s : Bytes) (i : Instr) (rest : Bytes) : Prop :=
  wellFormed cfg i = true ∧ spaceOf i = space ∧ s = encode cfg i ++ rest

/-! ### The frame -/

theorem decodeTrailer_ok {cmd : Byte} {p s rest : Bytes} {i : Instr} (h : decodeTrailer cmd p s = .ok (i, rest)) :
    i = wireInstr cmd p ∧ s = hiByte (crc p) :: loByte (crc p) :: terminatorMarker :: rest := by
  unfold decodeTrailer at h
  split at h
  · next hi lo t s =>
    split at h
    · cases h
    · next hcrc =>
      split at h
      · cases h
      · next ht =>
        cases h
        rw [not_not.mp hcrc, not_not.mp ht, hiByte_joinBytes, loByte_joinBytes]
        exact ⟨rfl, rfl⟩
  · cases h

theorem decodeBody_ok {len : Nat} {s rest : Bytes} {i : Instr} (h : decodeBody len s = .ok (i, rest)) :
    ∃ cmd p, p.length = len - lenOverhead ∧ i = wireInstr cmd p ∧
      s = cmd :: (p ++ hiByte (crc p) :: loByte (crc p) :: terminatorMarker :: rest) := by
  unfold decodeBody at h
  split at h
  · next cmd s =>
    split at h
    · cases h
    · next hlen =>
      obtain ⟨hi, hs⟩ := decodeTrailer_ok h
      refine ⟨cmd, s.take (len - lenOverhead), ?_, hi, ?_⟩
      · rw [List.length_take, Nat.min_eq_left (Nat.not_lt.mp hlen)]
      · rw [← hs, List.take_append_drop]
  · cases h

theorem lengthAccepted_iff {cfg : Config} {len : Nat} :
    lengthAccepted cfg len = true ↔ lenOverhead ≤ len ∧ len - lenOverhead ≤ cfg.rxMaxPayload := by
  simp [lengthAccepted]

/-- What decodes as a frame is the frame of a command byte and a payload that fits. -/
theorem decodeFrame_ok {cfg : Config} {s rest : Bytes} {i : Instr} (h : decodeFrame cfg s = .ok (i, rest)) :
    ∃ cmd p, payloadWf cfg p = true ∧ i = wireInstr cmd p ∧ s = encodeFrame cmd p ++ rest := by
  unfold decodeFrame at h
  split at h
  · cases h
  next hd s =>
  split at h
  · cases h
  next hheader =>
  split at h
  · cases h
  next pid s =>
  split at h
  · cases h
  next hpid =>
  split at h
  · next hi lo s =>
    split at h
    · next haccepted =>
      obtain ⟨cmd, p, hp, hi', rfl⟩ := decodeBody_ok h
      obtain ⟨hmin, hcap⟩ := lengthAccepted_iff.mp haccepted
      have hfield : BitVec.ofNat 16 (p.length + lenOverhead) = joinBytes hi lo := by
        rw [hp, Nat.sub_add_cancel hmin, BitVec.ofNat_toNat, BitVec.setWidth_eq]
      have hlt := (joinBytes hi lo).isLt
      refine ⟨cmd, p, ?_, hi', ?_⟩
      · simp only [payloadWf, Bool.and_eq_true, decide_eq_true_eq]
        unfold payloadMax lenOverhead at *
        omega
      · rw [not_not.mp hheader, not_not.mp hpid, encodeFrame, hfield, hiByte_joinBytes, loByte_joinBytes]
        simp
    · cases h
  · cases h

theorem wireInstr_spells {cfg : Config} {p : Bytes} (hp : payloadWf cfg p = true) (cmd : Byte) (rest : Bytes) :
    Spells cfg .frame (encodeFrame cmd p ++ rest) (wireInstr cmd p) rest := by
  by_cases hassigned : assignedCommand cmd = true
  · simp only [assignedCommand, Bool.or_eq_true, beq_iff_eq] at hassigned
    obtain ((rfl | rfl) | rfl) | rfl := hassigned <;> exact ⟨hp, rfl, rfl⟩
  · have hother := Bool.not_eq_true _ ▸ hassigned
    rw [wireInstr_other hother]
    exact ⟨by simp only [wellFormed, hother, hp]; rfl, rfl, rfl⟩

/-! ### The Record -/

theorem recordInstr_spells {cfg : Config} {r : Record} (h : recordFits r = true) (rest : Bytes) :
    Spells cfg .record (encodeRecord cfg r ++ rest) (recordInstr r) rest := by
  obtain ⟨t, k, p⟩ := r
  cases t <;> exact ⟨h, rfl, rfl⟩

theorem decodeRecord_ok {cfg : Config} {s rest : Bytes} {i : Instr} (h : decodeRecord cfg s = .ok (i, rest)) :
    Spells cfg .record s i rest := by
  obtain ⟨r, rest', hparse, hi⟩ := then_eq_ok h
  cases hi
  obtain ⟨hfits, rfl⟩ := parseRecord_ok hparse
  exact recordInstr_spells hfits rest

/-! ### The host operation

One lemma for each list of operands that follows a selection code. In each, `hf` says that the operation `f` builds is spelt
by its code and its operands. -/

section
variable {cfg : Config} {code : Byte} {s rest : Bytes} {i : Instr}

theorem noOperand_spells {j : Instr} (h : (.ok (j, s) : Decoded Instr) = .ok (i, rest))
    (hj : Spells cfg .hostOp (code :: rest) j rest) : Spells cfg .hostOp (code :: s) i rest := by
  cases h
  exact hj

theorem seq_spells {f : Bytes → Instr} (h : (takeSeq s).then (fun k s => .ok (f k, s)) = .ok (i, rest))
    (hf : ∀ k, Spells cfg .hostOp (code :: (putSeq k ++ rest)) (f k) rest) : Spells cfg .hostOp (code :: s) i rest := by
  obtain ⟨k, s', hk, hi⟩ := then_eq_ok h
  cases hi
  rw [takeSeq_ok hk]
  exact hf k

theorem seqSeq_spells {f : Bytes → Bytes → Instr}
    (h : (takeSeq s).then (fun k s => (takeSeq s).then fun v s => .ok (f k v, s)) = .ok (i, rest))
    (hf : ∀ k v, Spells cfg .hostOp (code :: ((putSeq k ++ putSeq v) ++ rest)) (f k v) rest) :
    Spells cfg .hostOp (code :: s) i rest := by
  obtain ⟨k, s', hk, h⟩ := then_eq_ok h
  obtain ⟨v, s'', hv, hi⟩ := then_eq_ok h
  cases hi
  rw [takeSeq_ok hk, takeSeq_ok hv, ← List.append_assoc]
  exact hf k v

/-- A number taken from `w` bytes is the number of a pattern of that width. -/
theorem takeNumber_ok_toNat {n w v : Nat} (hw : 2 ^ n = 256 ^ w) (h : takeNumber w s = .ok (v, rest)) :
    s = beBytes w (BitVec.ofNat n v).toNat ++ rest := by
  obtain ⟨hs, hlt⟩ := takeNumber_ok h
  rw [BitVec.toNat_ofNat, Nat.mod_eq_of_lt (hw ▸ hlt), hs]

theorem number_spells {n w : Nat} (hw : 2 ^ n = 256 ^ w) {f : BitVec n → Instr}
    (h : (takeNumber w s).then (fun v s => .ok (f (BitVec.ofNat n v), s)) = .ok (i, rest))
    (hf : ∀ v : BitVec n, Spells cfg .hostOp (code :: (beBytes w v.toNat ++ rest)) (f v) rest) :
    Spells cfg .hostOp (code :: s) i rest := by
  obtain ⟨v, s', hv, hi⟩ := then_eq_ok h
  cases hi
  rw [takeNumber_ok_toNat hw hv]
  exact hf _

theorem seqNumber_spells {n w : Nat} (hw : 2 ^ n = 256 ^ w) {f : Bytes → BitVec n → Instr}
    (h : (takeSeq s).then (fun k s => (takeNumber w s).then fun v s => .ok (f k (BitVec.ofNat n v), s)) = .ok (i, rest))
    (hf : ∀ k (v : BitVec n), Spells cfg .hostOp (code :: ((putSeq k ++ beBytes w v.toNat) ++ rest)) (f k v) rest) :
    Spells cfg .hostOp (code :: s) i rest := by
  obtain ⟨k, s', hk, h⟩ := then_eq_ok h
  obtain ⟨v, s'', hv, hi⟩ := then_eq_ok h
  cases hi
  rw [takeSeq_ok hk, takeNumber_ok_toNat hw hv, ← List.append_assoc]
  exact hf k _

end

/-- `CRC_CALC`'s indices are numbers of four bytes, so they are in the range that is well formed (log 2). -/
theorem crcCalc_spells {cfg : Config} {s rest : Bytes} {i : Instr}
    (h : (takeSeq s).then (fun d s => (takeNumber 4 s).then fun a s => (takeNumber 4 s).then fun b s =>
      .ok (.crcCalc d a b, s)) = .ok (i, rest)) : Spells cfg .hostOp (0x30#8 :: s) i rest := by
  obtain ⟨d, s', hd, h⟩ := then_eq_ok h
  obtain ⟨a, s'', ha, h⟩ := then_eq_ok h
  obtain ⟨b, s₃, hb, hi⟩ := then_eq_ok h
  cases hi
  obtain ⟨rfl, hlta⟩ := takeNumber_ok ha
  obtain ⟨rfl, hltb⟩ := takeNumber_ok hb
  refine ⟨?_, rfl, by rw [takeSeq_ok hd]; simp [encode]⟩
  simp only [wellFormed, Bool.and_eq_true, decide_eq_true_eq]
  exact ⟨hlta, hltb⟩

theorem decodeSelected_ok {cfg : Config} {code : Byte} {s rest : Bytes} {i : Instr}
    (h : decodeSelected code s = .ok (i, rest)) : Spells cfg .hostOp (code :: s) i rest := by
  have hcode : code = BitVec.ofNat 8 code.toNat := by simp
  rw [hcode]
  unfold decodeSelected at h
  generalize code.toNat = n at h
  split at h
  case h_1 | h_2 | h_3 | h_4 | h_5 | h_6 | h_7 | h_8 => exact seqNumber_spells rfl h fun _ _ => ⟨rfl, rfl, rfl⟩
  case h_9 => exact seqSeq_spells h fun _ _ => ⟨rfl, rfl, rfl⟩
  case h_10 | h_11 | h_12 | h_13 | h_14 | h_15 | h_16 | h_17 | h_18 | h_19 | h_22 | h_35 | h_36 =>
    exact seq_spells h fun _ => ⟨rfl, rfl, rfl⟩
  case h_23 => exact crcCalc_spells h
  case h_25 | h_29 | h_30 | h_31 | h_32 | h_33 | h_34 => exact number_spells rfl h fun _ => ⟨rfl, rfl, rfl⟩
  case h_45 => cases h
  all_goals exact noOperand_spells h ⟨rfl, rfl, rfl⟩

/-! ### Every space -/

theorem decode_spells {cfg : Config} {space : Space} {s rest : Bytes} {i : Instr}
    (h : decode cfg space s = .ok (i, rest)) : Spells cfg space s i rest := by
  cases space with
  | frame =>
    obtain ⟨cmd, p, hp, rfl, rfl⟩ := decodeFrame_ok h
    exact wireInstr_spells hp cmd rest
  | record => exact decodeRecord_ok h
  | hostOp =>
    cases s with
    | nil => cases h
    | cons code s => exact decodeSelected_ok h
  | rxStep => cases s <;> cases h <;> exact ⟨rfl, rfl, rfl⟩

/-- Settles O59: by the space that is decoded. -/
theorem eachEncodingHasOneMeaning : Obligations.EachEncodingHasOneMeaning :=
  fun _ _ _ _ _ => decode_spells

/-- Settles O60: each word is decoded by evaluation. -/
theorem specWordsDecode : Obligations.SpecWordsDecode := by
  refine ⟨?_, ?_, ?_, ?_, ?_, ?_, ?_, ?_⟩ <;> decide

end Sys2Proof.Machine
end

section
/-! The step: what each kind of turn runs, what is refused, and what reset writes (70_reset_and_hazards.md section 1,
30_encoding.md R107, 60_exceptions.md R300). -/

namespace Sys2Proof.Machine

/-! ### Completion -/

theorem execCrcCalc_completes (d : Bytes) (a b : Nat) (s : State) : ∃ t, execCrcCalc d a b s = .next t := by
  unfold execCrcCalc
  split <;> exact ⟨_, rfl⟩

theorem execPoll_completes (s : State) : ∃ t, execPoll s = .next t := by
  unfold execPoll
  split <;> exact ⟨_, rfl⟩

/-- Settles O57: every meaning is a next state outright, but for the two that branch, and both their branches are. -/
theorem everyInstructionCompletes : Obligations.EveryInstructionCompletes := by
  intro i s
  cases i
  case crcCalc d a b => exact execCrcCalc_completes d a b s
  case poll => exact execPoll_completes s
  all_goals exact ⟨_, rfl⟩

/-! ### The host's turn -/

theorem fetch_of_turn {s : State} (hw : s.cfg.Wf) {u : Turn} {ts : List Turn} (ht : s.turns = u :: ts) :
    fetch s = fetchTurn u { s with turns := ts } := by
  rw [fetch_of_wf hw, ht]

theorem step_host_of_ok {s : State} (hw : s.cfg.Wf) {ts : List Turn} (ht : s.turns = .host :: ts) (hport : s.hostPort ≠ [])
    {i : Instr} {rest : Bytes} (hd : decode s.cfg .hostOp s.hostPort = .ok (i, rest)) :
    step s = exec i { s with turns := ts, hostPort := rest } := by
  obtain ⟨b, port, hp⟩ := List.exists_cons_of_ne_nil hport
  rw [hp] at hd
  rw [step, fetch_of_turn hw ht]
  simp only [fetchTurn, fetchHost, hp, hd]

theorem step_host_of_error {s : State} (hw : s.cfg.Wf) {ts : List Turn} (ht : s.turns = .host :: ts) (hport : s.hostPort ≠ [])
    {e : DecodeError} (hd : decode s.cfg .hostOp s.hostPort = .error e) : step s = .refused (portRefusal e) := by
  obtain ⟨b, port, hp⟩ := List.exists_cons_of_ne_nil hport
  rw [hp] at hd
  rw [step, fetch_of_turn hw ht]
  simp only [fetchTurn, fetchHost, hp, hd]

theorem step_host_idle {s : State} (hw : s.cfg.Wf) {ts : List Turn} (ht : s.turns = .host :: ts) (hport : s.hostPort = []) :
    step s = .next { s with turns := ts, out := .silent } := by
  rw [step, fetch_of_turn hw ht]
  simp only [fetchTurn, fetchHost, hport]
  rfl

/-! ### The transport's turn -/

theorem step_receive_cons {s : State} (hw : s.cfg.Wf) {ts : List Turn} (ht : s.turns = .receive :: ts) {b : Byte} {q : Bytes}
    (hq : s.rxFifo = b :: q) : step s = exec (.rxByte b) { s with turns := ts, rxFifo := q } := by
  rw [step, fetch_of_turn hw ht]
  simp only [fetchTurn, fetchReceive, decode, hq, decodeRx]

theorem step_receive_nil {s : State} (hw : s.cfg.Wf) {ts : List Turn} (ht : s.turns = .receive :: ts)
    (hq : s.rxFifo = []) : step s = exec .rxEmpty { s with turns := ts } := by
  rw [step, fetch_of_turn hw ht]
  simp only [fetchTurn, fetchReceive, decode, hq, decodeRx]

/-- Settles O50: each clause is the step's equation for that turn. -/
theorem stepRunsTheDecodedInstruction : Obligations.StepRunsTheDecodedInstruction :=
  fun _ _ hw => ⟨fun _ _ ht hport hd => step_host_of_ok hw ht hport hd, fun _ _ ht hq => step_receive_cons hw ht hq,
    fun ht hq => step_receive_nil hw ht hq⟩

/-! ### Steps that run no instruction -/

/-- Settles O51: the environment's turn, an idle host, no turn, and refused parameters. -/
theorem stepsWithoutInstruction : Obligations.StepsWithoutInstruction := by
  intro ts s
  refine ⟨fun hw bytes ht => ?link, fun hw ht hport => step_host_idle hw ht hport, fun hw ht => ?noTurn, step_of_not_wf⟩
  case link =>
    rw [step, fetch_of_turn hw ht]
    rfl
  case noTurn => rw [step, fetch_of_wf hw, ht]

/-- Settles O52: the turn is taken and `resetBlock` writes the rest. -/
theorem resetRestoresEveryRegister : Obligations.ResetRestoresEveryRegister := by
  intro ts s hw ht
  rw [step, fetch_of_turn hw ht]
  rfl

/-- Settles O55: empty store and buffer, an idle framer, and the default parameters are checked by evaluation. -/
theorem resetStateIsSound : Obligations.ResetStateIsSound := by
  unfold Obligations.ResetStateIsSound
  decide

/-! ### Codes that select no operation -/

/-- The selection codes of 30_encoding.md R106's table. -/
def SelectsOperation (n : Nat) : Prop :=
  n ≤ 0x08 ∨ 0x10 ≤ n ∧ n ≤ 0x18 ∨ 0x20 ≤ n ∧ n ≤ 0x23 ∨ n = 0x30 ∨ 0x40 ≤ n ∧ n ≤ 0x44 ∨ 0x50 ≤ n ∧ n ≤ 0x57 ∨
    0x60 ≤ n ∧ n ≤ 0x67

theorem decodeSelected_of_not_selectsOperation {code : Byte} (h : ¬ SelectsOperation code.toNat) (s : Bytes) :
    decodeSelected code s = .error (.invalidCode code) := by
  unfold SelectsOperation at h
  unfold decodeSelected
  split
  case h_45 => rfl
  all_goals omega

theorem takeSeq_error {s : Bytes} {e : DecodeError} (h : takeSeq s = .error e) : e = .badOperands := by
  induction s using takeSeq.induct generalizing e with
  | case1 => exact (Except.error.inj h).symm
  | case2 => simp [takeSeq] at h
  | case3 m hm => simpa [takeSeq, hm, eq_comm] using h
  | case4 b s => simp [takeSeq] at h
  | case5 b s hne ih =>
    simp only [takeSeq, hne, if_false, if_true] at h
    obtain hrest | ⟨k, s', -, hok⟩ := then_eq_error h
    · exact ih hrest
    · cases hok
  | case6 m b s h1 h2 => simpa [takeSeq, h1, h2, eq_comm] using h

theorem takeNumber_error {w : Nat} {s : Bytes} {e : DecodeError} (h : takeNumber w s = .error e) : e = .badOperands := by
  unfold takeNumber at h
  split at h
  · exact (Except.error.inj h).symm
  · cases h

theorem takeSeq_ne_invalidCode (s : Bytes) (c : Byte) : takeSeq s ≠ .error (.invalidCode c) :=
  fun h => DecodeError.noConfusion (takeSeq_error h)

theorem takeNumber_ne_invalidCode (w : Nat) (s : Bytes) (c : Byte) : takeNumber w s ≠ .error (.invalidCode c) :=
  fun h => DecodeError.noConfusion (takeNumber_error h)

theorem then_ne_error {α β : Type} {d : Decoded α} {f : α → Bytes → Decoded β} {e : DecodeError} (hd : d ≠ .error e)
    (hf : ∀ a s, f a s ≠ .error e) : d.then f ≠ .error e := by
  intro h
  obtain h | ⟨a, s, -, h⟩ := then_eq_error h
  · exact hd h
  · exact hf a s h

/-- A code of the table never fails as an invalid one: only its operands can be ill-formed. -/
theorem decodeSelected_ne_invalidCode {code : Byte} (h : SelectsOperation code.toNat) (s : Bytes) (c : Byte) :
    decodeSelected code s ≠ .error (.invalidCode c) := by
  have hseq := takeSeq_ne_invalidCode
  have hnum := takeNumber_ne_invalidCode
  unfold SelectsOperation at h
  unfold decodeSelected
  split
  case h_1 | h_2 | h_3 | h_4 | h_5 | h_6 | h_7 | h_8 =>
    exact then_ne_error (hseq _ c) fun _ _ => then_ne_error (hnum _ _ c) fun _ _ => nofun
  case h_9 => exact then_ne_error (hseq _ c) fun _ _ => then_ne_error (hseq _ c) fun _ _ => nofun
  case h_10 | h_11 | h_12 | h_13 | h_14 | h_15 | h_16 | h_17 | h_18 | h_19 | h_22 | h_35 | h_36 =>
    exact then_ne_error (hseq _ c) fun _ _ => nofun
  case h_23 =>
    exact then_ne_error (hseq _ c) fun _ _ => then_ne_error (hnum _ _ c) fun _ _ => then_ne_error (hnum _ _ c) fun _ _ => nofun
  case h_25 | h_29 | h_30 | h_31 | h_32 | h_33 | h_34 => exact then_ne_error (hnum _ _ c) fun _ _ => nofun
  case h_45 =>
    exfalso
    simp only [imp_false] at *
    omega
  all_goals nofun

theorem portRefusal_eq_invalidOperation {e : DecodeError} {c : Byte} (h : portRefusal e = .invalidOperation c) :
    e = .invalidCode c := by
  cases e <;> cases h
  rfl

/-- Settles O53: outside the table the decoder refuses the code; inside it, the step runs an operation, which completes, or
refuses its operands. -/
theorem invalidOperationsAreRefused : Obligations.InvalidOperationsAreRefused := by
  intro code ts rest s hw ht hport
  have hne : s.hostPort ≠ [] := by simp [hport]
  have hdecode : decode s.cfg .hostOp s.hostPort = decodeSelected code rest := by rw [hport]; rfl
  constructor
  · intro hcode
    exact step_host_of_error hw ht hne (hdecode.trans (decodeSelected_of_not_selectsOperation hcode rest))
  · intro hstep hcode
    cases hd : decodeSelected code rest with
    | ok p =>
      rw [step_host_of_ok hw ht hne (hdecode.trans hd)] at hstep
      obtain ⟨t, hnext⟩ := everyInstructionCompletes p.1 { s with turns := ts, hostPort := p.2 }
      exact nomatch hnext.symm.trans hstep
    | error e =>
      rw [step_host_of_error hw ht hne (hdecode.trans hd)] at hstep
      obtain rfl := portRefusal_eq_invalidOperation (Host.Outcome.refused.inj hstep)
      exact decodeSelected_ne_invalidCode hcode rest code hd

end Sys2Proof.Machine
end

section
/-! Laws of the checksum (40_crc.md sections 3 and 4): its corner cases, linearity, the errors it detects, and the polynomial
remainder that it is. -/

namespace Sys2Proof.Machine

/-- Settles O2: the lemma of `CRC_CALC`'s statement. -/
theorem crcTableStepIsBitSerialStep : Obligations.CrcTableStepIsBitSerialStep := crcStep_eq_crcStepSerial

/-! ### The update as eight rounds of the table's construction -/

theorem tableShift_zero : tableShift 0#16 = 0#16 := by decide

/-- A round of R131 is linear: the bit that leaves chooses whether the polynomial is added. -/
theorem tableShift_xor (a b : Half) : tableShift (a ^^^ b) = tableShift a ^^^ tableShift b := by
  unfold tableShift
  rw [BitVec.msb_xor, BitVec.shiftLeft_xor_distrib]
  cases a.msb <;> cases b.msb
  case false.false => rfl
  case false.true => exact BitVec.xor_assoc _ _ _
  case true.false =>
    exact (BitVec.xor_assoc _ _ _).trans ((congrArg _ (BitVec.xor_comm _ _)).trans (BitVec.xor_assoc _ _ _).symm)
  case true.true =>
    have hcancel : a <<< 1 ^^^ crcPoly ^^^ (b <<< 1 ^^^ crcPoly) = a <<< 1 ^^^ b <<< 1 ^^^ (crcPoly ^^^ crcPoly) := by ac_rfl
    rw [BitVec.xor_self, BitVec.xor_zero] at hcancel
    exact hcancel.symm

/-- The polynomial is odd, so the lowest bit tells which bit left: only zero becomes zero. -/
theorem eq_zero_of_tableShift_eq_zero {a : Half} (h : tableShift a = 0#16) : a = 0#16 := by
  unfold tableShift at h
  split at h
  · have hlow : (a <<< 1 ^^^ crcPoly).getLsbD 0 = true := by simp; rfl
    rw [h] at hlow
    simp at hlow
  · next hmsb =>
    apply BitVec.eq_of_getLsbD_eq
    intro k hk
    by_cases htop : k = 15
    · subst htop
      simpa [BitVec.msb_eq_getLsbD_last] using hmsb
    · have hbit : (a <<< 1).getLsbD (k + 1) = a.getLsbD k := by
        simp
        omega
      rw [← hbit, h]
      simp

theorem repeat_tableShift_zero (n : Nat) : Nat.repeat tableShift n 0#16 = 0#16 := by
  induction n with
  | zero => rfl
  | succ n ih => rw [Nat.repeat, ih, tableShift_zero]

theorem repeat_tableShift_xor (n : Nat) (a b : Half) :
    Nat.repeat tableShift n (a ^^^ b) = Nat.repeat tableShift n a ^^^ Nat.repeat tableShift n b := by
  induction n with
  | zero => rfl
  | succ n ih => rw [Nat.repeat, ih, tableShift_xor]; rfl

theorem eq_zero_of_repeat_tableShift_eq_zero {n : Nat} {a : Half} (h : Nat.repeat tableShift n a = 0#16) : a = 0#16 := by
  induction n with
  | zero => exact h
  | succ n ih => exact ih (eq_zero_of_tableShift_eq_zero h)

/-- The byte joins the register's high half, and eight rounds follow. -/
theorem crcStep_eq_repeat (c : Half) (b : Byte) :
    crcStep c b = Nat.repeat tableShift 8 (c ^^^ joinBytes b 0x00#8) := by
  have hgone : joinBytes b 0x00#8 <<< 8 = 0#16 := joinBytes_shiftLeft_eight b 0x00#8
  have hback : c ^^^ joinBytes b 0x00#8 ^^^ joinBytes b 0x00#8 = c := by
    rw [BitVec.xor_assoc, BitVec.xor_self, BitVec.xor_zero]
  calc crcStep c b
      = crcStepSerial (c ^^^ joinBytes b 0x00#8 ^^^ joinBytes b 0x00#8) b := by rw [hback, crcStep_eq_crcStepSerial]
    _ = Nat.repeat tableShift 8 (c ^^^ joinBytes b 0x00#8) ^^^ joinBytes b 0x00#8 <<< 8 := by
        rw [crcStepSerial_eq_foldl_joinBytes _ b 0x00#8]
        exact foldl_crcShiftBit_xor _ _ 8
    _ = _ := by rw [hgone, BitVec.xor_zero]

theorem crcStep_xor (c c' : Half) (b b' : Byte) : crcStep (c ^^^ c') (b ^^^ b') = crcStep c b ^^^ crcStep c' b' := by
  have hjoin : joinBytes (b ^^^ b') 0x00#8 = joinBytes b 0x00#8 ^^^ joinBytes b' 0x00#8 := by
    rw [joinBytes_xor_joinBytes, BitVec.xor_zero]
  have hsort : (c ^^^ c') ^^^ (joinBytes b 0x00#8 ^^^ joinBytes b' 0x00#8) =
      (c ^^^ joinBytes b 0x00#8) ^^^ (c' ^^^ joinBytes b' 0x00#8) := by ac_rfl
  rw [crcStep_eq_repeat, crcStep_eq_repeat, crcStep_eq_repeat, hjoin, hsort, repeat_tableShift_xor]

theorem crcStep_zero_zero : crcStep 0#16 0x00#8 = 0#16 := by
  rw [crcStep_eq_repeat]
  exact repeat_tableShift_zero 8

/-- The update of a register and a byte is zero only where the byte cancels the register. -/
theorem eq_joinBytes_of_crcStep_eq_zero {c : Half} {b : Byte} (h : crcStep c b = 0#16) : c = joinBytes b 0x00#8 := by
  rw [crcStep_eq_repeat] at h
  exact BitVec.xor_eq_zero_iff.mp (eq_zero_of_repeat_tableShift_eq_zero h)

/-! ### The checksum of a byte sequence -/

theorem crc_eq_foldl (m : Bytes) : crc m = m.foldl crcStep 0#16 :=
  BitVec.xor_zero

theorem crc_append (a b : Bytes) : crc (a ++ b) = b.foldl crcStep (crc a) := by
  rw [crc_eq_foldl, crc_eq_foldl, List.foldl_append]

theorem foldl_crcStep_xor {a b : Bytes} (h : a.length = b.length) (c d : Half) :
    (List.zipWith (· ^^^ ·) a b).foldl crcStep (c ^^^ d) = a.foldl crcStep c ^^^ b.foldl crcStep d := by
  induction a generalizing b c d with
  | nil =>
    obtain rfl : b = [] := List.length_eq_zero_iff.mp h.symm
    rfl
  | cons u a ih =>
    obtain ⟨v, b, rfl⟩ := List.exists_cons_of_length_eq_add_one h.symm
    rw [List.zipWith_cons_cons, List.foldl_cons, List.foldl_cons, List.foldl_cons, crcStep_xor]
    exact ih (Nat.succ.inj h) _ _

/-- Law (a) of R139. -/
theorem crc_zipWith_xor {a b : Bytes} (h : a.length = b.length) :
    crc (List.zipWith (· ^^^ ·) a b) = crc a ^^^ crc b := by
  rw [crc_eq_foldl, crc_eq_foldl, crc_eq_foldl]
  exact foldl_crcStep_xor h 0#16 0#16

/-- The register's own high byte drives nothing but the shift. -/
theorem crcStep_hiByte (c : Half) : crcStep c (hiByte c) = c <<< 8 := by
  have hindex : hiByte c ^^^ hiByte c = 0x00#8 := BitVec.xor_self
  rw [crcStep, hindex, crcLookup_eq_crcTableEntry]
  exact BitVec.xor_zero

theorem hiByte_shiftLeft_eight (c : Half) : hiByte (c <<< 8) = loByte c := by
  rw [← joinBytes_hiByte_loByte c, joinBytes_shiftLeft_eight, hiByte_joinBytes, loByte_joinBytes]

/-- Settles O5: an update is linear, so a run over equal lengths is; the checksum's own two bytes shift the register out. -/
theorem crcIsLinearWithZeroResidue : Obligations.CrcIsLinearWithZeroResidue := by
  refine ⟨fun a b h => crc_zipWith_xor h, fun m => ?_⟩
  calc crc (m ++ [hiByte (crc m), loByte (crc m)])
      = crcStep (crcStep (crc m) (hiByte (crc m))) (loByte (crc m)) := crc_append _ _
    _ = crc m <<< 8 <<< 8 := by rw [crcStep_hiByte, ← hiByte_shiftLeft_eight, crcStep_hiByte]
    _ = 0x0000#16 := by
        rw [← BitVec.shiftLeft_add]
        exact BitVec.shiftLeft_eq_zero (Nat.le_refl 16)

/-! ### Corner cases (R137) -/

theorem crc_replicate_zero (n : Nat) : crc (List.replicate n 0x00#8) = 0#16 := by
  induction n with
  | zero => rfl
  | succ n ih =>
    rw [List.replicate_succ', crc_append, ih]
    exact crcStep_zero_zero

theorem crc_singleton (b : Byte) : crc [b] = crcTableEntry b := by
  calc crc [b] = crcStep 0#16 b := by rw [crc_eq_foldl]; rfl
    _ = Nat.repeat tableShift 8 (joinBytes b 0x00#8) := by rw [crcStep_eq_repeat, BitVec.zero_xor]

theorem exec_crcCalc_of_range {d : Bytes} {start stop : Nat} (h : start ≤ stop ∧ stop ≤ d.length) (s : State) :
    exec (.crcCalc d start stop) s = .next { s with out := .checksum (crc ((d.take stop).drop start)) } := by
  rw [exec_crcCalc, execCrcCalc, if_pos h]
  rfl

/-- Settles O4: an update of zero by zero is zero, and the range is cut out before the checksum is formed. -/
theorem crcCornerCases : Obligations.CrcCornerCases := by
  refine ⟨fun d k s hk => ?empty, fun n m => ?leadingZeros, crc_replicate_zero, crc_singleton, fun pre m post s => ?anywhere⟩
  case empty =>
    have hnothing : (d.take k).drop k = [] := List.drop_eq_nil_iff.mpr (List.length_take_le k d)
    rw [exec_crcCalc_of_range ⟨Nat.le_refl k, hk⟩, hnothing]
    rfl
  case leadingZeros => rw [crc_append, crc_replicate_zero, ← crc_eq_foldl]
  case anywhere =>
    have hcut : ((pre ++ m ++ post).take (pre.length + m.length)).drop pre.length = m := by
      rw [← List.length_append, List.take_left, List.drop_left]
    rw [exec_crcCalc_of_range (by simp), hcut]

/-! ### Errors detected (R139, law (c)) -/

theorem crcStep_left_injective {c d : Half} {b : Byte} (h : crcStep c b = crcStep d b) : c = d := by
  have hdiff : crcStep (c ^^^ d) (b ^^^ b) = 0#16 := by rw [crcStep_xor, h, BitVec.xor_self]
  have hzero := eq_joinBytes_of_crcStep_eq_zero hdiff
  rw [BitVec.xor_self] at hzero
  exact BitVec.xor_eq_zero_iff.mp hzero

theorem crcStep_right_injective {c : Half} {a b : Byte} (h : crcStep c a = crcStep c b) : a = b := by
  have hdiff : crcStep (c ^^^ c) (a ^^^ b) = 0#16 := by rw [crcStep_xor, h, BitVec.xor_self]
  have hzero := congrArg hiByte (eq_joinBytes_of_crcStep_eq_zero hdiff)
  rw [BitVec.xor_self, hiByte_joinBytes] at hzero
  exact BitVec.xor_eq_zero_iff.mp hzero.symm

theorem foldl_crcStep_injective {m : Bytes} {c d : Half} (h : m.foldl crcStep c = m.foldl crcStep d) : c = d := by
  induction m generalizing c d with
  | nil => exact h
  | cons b m ih => exact crcStep_left_injective (ih h)

/-- Settles O6: the changed byte changes the register, and no later update brings the two registers together. -/
theorem crcDetectsOneChangedByte : Obligations.CrcDetectsOneChangedByte := by
  intro pre post a b hab h
  rw [crc_append, crc_append] at h
  exact hab (crcStep_right_injective (foldl_crcStep_injective (m := post) h))

set_option maxRecDepth 4000 in
/-- Settles O1: the entries by the construction of R131, the checksums by the bit-serial update, all evaluated. -/
theorem crcTestVectors : Obligations.CrcTestVectors := by
  unfold Obligations.CrcTestVectors
  simp only [crcLookup_eq_crcTableEntry, crc_eq_specCrc]
  refine ⟨by simp [crcTable], ?_, ?_, ?_, ?_, ?_, ?_, ?_, ?_, ?_, ?_, ?_, ?_⟩ <;> decide

end Sys2Proof.Machine
end

section
/-! The checksum as the remainder of a polynomial over GF(2) (40_crc.md R138), and from it that an odd number of changed bits is
detected: the generator has an even number of terms (R139). -/

namespace Sys2Proof.Machine

open Polynomial

/-! ### Bits as coefficients -/

/-- A bit as a constant polynomial over GF(2). -/
noncomputable def bitPoly (b : Bool) : (ZMod 2)[X] := if b then 1 else 0

theorem bitPoly_xor (a b : Bool) : bitPoly (a ^^ b) = bitPoly a + bitPoly b := by
  cases a <;> cases b <;> simp [bitPoly, CharTwo.add_self_eq_zero]

/-- The polynomial of a bit sequence, highest power first. -/
noncomputable def bitsPoly (bits : List Bool) : (ZMod 2)[X] := bits.foldl (fun p b => p * X + bitPoly b) 0

/-- The polynomial of a register. -/
noncomputable def halfPoly (c : Half) : (ZMod 2)[X] := ∑ k ∈ Finset.range 16, bitPoly (c.getLsbD k) * X ^ k

/-- The generator of R130. -/
noncomputable def generator : (ZMod 2)[X] := X ^ 16 + X ^ 12 + X ^ 5 + 1

theorem bitsPoly_map_getLsbD (c : Half) :
    bitsPoly ([15, 14, 13, 12, 11, 10, 9, 8, 7, 6, 5, 4, 3, 2, 1, 0].map c.getLsbD) = halfPoly c := by
  simp only [bitsPoly, halfPoly, List.map_cons, List.map_nil, List.foldl_cons, List.foldl_nil, Finset.sum_range_succ,
    Finset.sum_range_zero]
  ring

theorem halfPoly_xor (c d : Half) : halfPoly (c ^^^ d) = halfPoly c + halfPoly d := by
  simp only [halfPoly, BitVec.getLsbD_xor, bitPoly_xor, add_mul, Finset.sum_add_distrib]

theorem halfPoly_crcPoly : halfPoly crcPoly = X ^ 12 + X ^ 5 + 1 := by
  simp [halfPoly, Finset.sum_range_succ, bitPoly, crcPoly]
  ring

/-- A shift multiplies by X, and the leading bit is lost. -/
theorem halfPoly_shiftLeft_one (c : Half) : halfPoly (c <<< 1) = halfPoly c * X + bitPoly c.msb * X ^ 16 := by
  have hmsb : c.msb = c.getLsbD 15 := by simp [BitVec.msb_eq_getLsbD_last]
  have hlast : halfPoly c = ∑ k ∈ Finset.range 15, bitPoly (c.getLsbD k) * X ^ k + bitPoly (c.getLsbD 15) * X ^ 15 :=
    Finset.sum_range_succ _ 15
  have hfirst : halfPoly (c <<< 1) = ∑ k ∈ Finset.range 15, bitPoly (c.getLsbD k) * X ^ (k + 1) := by
    rw [halfPoly, Finset.sum_range_succ']
    have hzero : bitPoly ((c <<< 1).getLsbD 0) = 0 := by simp [bitPoly]
    rw [hzero, zero_mul, add_zero]
    refine Finset.sum_congr rfl fun k hk => ?_
    have hk := Finset.mem_range.mp hk
    rw [BitVec.getLsbD_shiftLeft]
    have hbit : (decide (k + 1 < 16) && !decide (k + 1 < 1) && c.getLsbD (k + 1 - 1)) = c.getLsbD k := by
      simp
      omega
    rw [hbit]
  rw [hfirst, hlast, hmsb, add_mul, Finset.sum_mul, add_assoc, mul_assoc, ← pow_succ, CharTwo.add_self_eq_zero, add_zero]
  exact Finset.sum_congr rfl fun k _ => by rw [mul_assoc, ← pow_succ]

theorem degree_halfPoly_lt (c : Half) : (halfPoly c).degree < (16 : ℕ) := by
  rw [← mem_degreeLT]
  refine Submodule.sum_mem _ fun k hk => mem_degreeLT.mpr ?_
  have hk := Finset.mem_range.mp hk
  cases c.getLsbD k with
  | false =>
    have hzero : bitPoly false = 0 := rfl
    rw [hzero, zero_mul, degree_zero]
    exact WithBot.bot_lt_coe 16
  | true => simpa [bitPoly] using hk

/-! ### The bit-serial update modulo the generator -/

/-- A round of R134 multiplies the register's polynomial by X and adds the message bit times X^16, up to a multiple of the
generator. -/
theorem generator_dvd_crcShiftBit (c : Half) (bit : Bool) :
    generator ∣ halfPoly (crcShiftBit c bit) - (halfPoly c * X + bitPoly bit * X ^ 16) := by
  have hround : halfPoly (crcShiftBit c bit) = halfPoly (c <<< 1) + bitPoly (c.msb ^^ bit) * halfPoly crcPoly := by
    unfold crcShiftBit
    split <;> simp_all [halfPoly_xor, bitPoly]
  refine ⟨bitPoly (c.msb ^^ bit), ?_⟩
  rw [hround, halfPoly_shiftLeft_one, halfPoly_crcPoly, bitPoly_xor, generator]
  linear_combination (-X ^ 16) * CharTwo.add_self_eq_zero (bitPoly bit)

/-- The register and the message bits taken in so far stay congruent. -/
theorem generator_dvd_foldl (bits : List Bool) {c : Half} {p : (ZMod 2)[X]} (h : generator ∣ halfPoly c - p * X ^ 16) :
    generator ∣ halfPoly (bits.foldl crcShiftBit c) - bits.foldl (fun p b => p * X + bitPoly b) p * X ^ 16 := by
  induction bits generalizing c p with
  | nil => exact h
  | cons b bits ih =>
    refine ih ?_
    have hsum := dvd_add (generator_dvd_crcShiftBit c b) (Dvd.dvd.mul_right h X)
    have hsplit : halfPoly (crcShiftBit c b) - (p * X + bitPoly b) * X ^ 16 =
        halfPoly (crcShiftBit c b) - (halfPoly c * X + bitPoly b * X ^ 16) + (halfPoly c - p * X ^ 16) * X := by ring
    rw [hsplit]
    exact hsum

/-- The bits of a byte, most significant first. -/
def byteBits (b : Byte) : List Bool := [7, 6, 5, 4, 3, 2, 1, 0].map b.getLsbD

theorem crc_eq_foldl_crcShiftBit (m : Bytes) : crc m = (m.flatMap byteBits).foldl crcShiftBit 0#16 := by
  have hbyte : crcStepSerial = fun c b => (byteBits b).foldl crcShiftBit c := rfl
  rw [crc_eq_specCrc, specCrc, hbyte, List.foldl_flatMap]

theorem generator_dvd_crc (m : Bytes) :
    generator ∣ halfPoly (crc m) - bitsPoly (m.flatMap byteBits) * X ^ 16 := by
  rw [crc_eq_foldl_crcShiftBit]
  exact generator_dvd_foldl _ (by simp [halfPoly, bitPoly])

theorem generator_monic : generator.Monic := by
  unfold generator
  monicity!

theorem degree_generator : generator.degree = (16 : ℕ) := by
  unfold generator
  compute_degree!

/-- Settles O8: the register is congruent to `M(x) · x^16` and of lower degree than the generator. -/
theorem crcIsPolynomialRemainder : Obligations.CrcIsPolynomialRemainder := by
  intro m
  change (bitsPoly (m.flatMap byteBits) * X ^ 16) %ₘ generator =
    bitsPoly ([15, 14, 13, 12, 11, 10, 9, 8, 7, 6, 5, 4, 3, 2, 1, 0].map (crc m).getLsbD)
  rw [bitsPoly_map_getLsbD, ← modByMonic_eq_of_dvd_sub generator_monic (generator_dvd_crc m),
    modByMonic_eq_self_iff generator_monic, degree_generator]
  exact degree_halfPoly_lt _

/-! ### An odd number of changed bits -/

theorem eval_one_bitsPoly (bits : List Bool) : (bitsPoly bits).eval 1 = ((bits.countP id : ℕ) : ZMod 2) := by
  induction bits using List.reverseRecOn with
  | nil => simp [bitsPoly]
  | append_singleton bits b ih =>
    have hstep : bitsPoly (bits ++ [b]) = bitsPoly bits * X + bitPoly b := List.foldl_concat ..
    rw [hstep, List.countP_append, eval_add, eval_mul, eval_X, mul_one, ih]
    cases b <;> simp [bitPoly]

/-- The generator has four terms, so 1 is its root. -/
theorem eval_one_generator : generator.eval 1 = 0 := by
  simp [generator]
  decide

/-- The number of ones in a message and in its checksum are both even or both odd. -/
theorem eval_one_halfPoly_crc (m : Bytes) :
    (halfPoly (crc m)).eval 1 = (((m.flatMap byteBits).countP id : ℕ) : ZMod 2) := by
  obtain ⟨q, hq⟩ := generator_dvd_crc m
  have heval := congrArg (eval 1) hq
  rw [eval_sub, eval_mul, eval_mul, eval_one_generator, zero_mul, eval_pow, eval_X, one_pow, mul_one, sub_eq_zero,
    eval_one_bitsPoly] at heval
  exact heval

theorem countP_xor {α : Type} (f g : α → Bool) (l : List α) :
    ((l.countP fun k => f k ^^ g k : ℕ) : ZMod 2) = (l.countP f : ℕ) + (l.countP g : ℕ) := by
  induction l with
  | nil => simp
  | cons k l ih =>
    simp only [List.countP_cons, Nat.cast_add, ih]
    have hbit : ((if (f k ^^ g k) = true then 1 else 0 : ℕ) : ZMod 2) =
        ((if f k = true then 1 else 0 : ℕ) : ZMod 2) + ((if g k = true then 1 else 0 : ℕ) : ZMod 2) := by
      cases f k <;> cases g k <;> decide
    rw [hbit]
    ring

theorem countP_byteBits (b : Byte) : (byteBits b).countP id = (List.range 8).countP fun k => b.getLsbD k := by
  have hrange : ([7, 6, 5, 4, 3, 2, 1, 0] : List Nat) = (List.range 8).reverse := by decide
  rw [byteBits, hrange, List.countP_map, List.countP_reverse]
  rfl

theorem countP_xor_byteBits (u v : Byte) :
    (((List.range 8).countP fun k => (u ^^^ v).getLsbD k : ℕ) : ZMod 2) =
      ((byteBits u).countP id : ℕ) + ((byteBits v).countP id : ℕ) := by
  rw [countP_byteBits, countP_byteBits, ← countP_xor]
  simp only [BitVec.getLsbD_xor]

/-- Counted in GF(2), the changed bits are the ones of both sequences together. -/
theorem sum_zipWith_countP_xor {a b : Bytes} (h : a.length = b.length) :
    (((List.zipWith (fun u v : Byte => (List.range 8).countP fun k => (u ^^^ v).getLsbD k) a b).sum : ℕ) : ZMod 2) =
      ((a.flatMap byteBits).countP id : ℕ) + ((b.flatMap byteBits).countP id : ℕ) := by
  induction a generalizing b with
  | nil =>
    obtain rfl : b = [] := List.length_eq_zero_iff.mp h.symm
    simp
  | cons u a ih =>
    obtain ⟨v, b, rfl⟩ := List.exists_cons_of_length_eq_add_one h.symm
    rw [List.zipWith_cons_cons, List.sum_cons, List.flatMap_cons, List.flatMap_cons, List.countP_append, List.countP_append,
      Nat.cast_add, Nat.cast_add, Nat.cast_add, ih (Nat.succ.inj h), countP_xor_byteBits]
    ring

/-- Settles O7: equal checksums have equal parity, so the messages' parities are equal and the changed bits even in number. -/
theorem crcDetectsOddBitErrors : Obligations.CrcDetectsOddBitErrors := by
  intro a b hlen hodd hcrc
  have hchanged := sum_zipWith_countP_xor hlen
  rw [← eval_one_halfPoly_crc, ← eval_one_halfPoly_crc, hcrc, CharTwo.add_self_eq_zero, ZMod.natCast_eq_zero_iff] at hchanged
  omega

end Sys2Proof.Machine
end

section
/-! `SET`: what it appends, what `GET` then answers, and the store's invariants that it keeps (41_record_store.md R153, R179,
R180). -/

namespace Sys2Proof.Machine

/-! ### A new field -/

theorem setField_absent {r : Record} {s : State} (h : Settable r) (ha : ∀ q ∈ s.x, q.key ≠ r.key)
    (hroom : s.cfg.storeMaxRecords ≠ some s.x.length) :
    setField r s = { s with x := s.x ++ [r], out := .status .ok } := by
  have hset := storeSet_absent (cfg := s.cfg) h ha
  rw [storeIsFull_eq_false.mpr hroom, if_neg Bool.false_ne_true] at hset
  exact setField_of_ok hset

/-- Settles O9: an absent key's Record is appended where there is room. -/
theorem setAppendsNewField : Obligations.SetAppendsNewField := by
  intro i r s hi hkey hstr habsent hroom
  rw [exec_of_setRecord hi, setField_absent ⟨hkey, hstr⟩ habsent hroom]

/-! ### The bytes of a `SET`'s value -/

/-- A `SET` forms as many bytes as its type is wide (R159). -/
theorem widthMatches_of_setRecord {o : ByteOrder} {i : Instr} {r : Record} (h : setRecord o i = some r) :
    WidthMatches r.tag r.payload := by
  cases i <;> simp only [setRecord, Option.some.injEq, reduceCtorEq] at h <;> subst h
  case setStr => exact .inl rfl
  case setI8 | setU8 => exact .inr rfl
  all_goals exact .inr (by simp [fixedWidth, sliceBytes_eq])

/-- The bytes of a pattern read back as its number. -/
theorem weighBytes_sliceBytes {n w : Nat} (hw : 256 ^ w = 2 ^ n) (o : ByteOrder) (v : BitVec n) :
    weighBytes o (sliceBytes o w v) = v.toNat := by
  rw [weighBytes_eq, sliceBytes_eq, ordValue_ordBytes, hw, Nat.mod_eq_of_lt v.isLt]

theorem weighBytes_singleton (o : ByteOrder) (v : Byte) : weighBytes o [v] = v.toNat := by
  cases o <;> rfl

theorem signedNumber_toNat {n : Nat} (hn : 0 < n) (v : BitVec n) : signedNumber n v.toNat = v.toInt := by
  rw [← toInt_ofNat_eq_signedNumber hn v.isLt, BitVec.ofNat_toNat, BitVec.setWidth_eq]

/-- The value read from the bytes that a `SET` forms is the one presented, in either byte order (R179). -/
theorem specValue_of_setRecord {o : ByteOrder} {i : Instr} {r : Record} {v : Value} (hr : setRecord o i = some r)
    (hv : setValue i = some v) : specValue o r.tag r.payload = v := by
  cases i <;> simp only [setRecord, setValue, Option.some.injEq, reduceCtorEq] at hr hv <;> subst hr hv
  case setI8 => simp only [specValue, weighBytes_singleton, signedNumber_toNat (n := 8) (by decide)]
  case setU8 => simp only [specValue, weighBytes_singleton]
  case setI16 => simp only [specValue, weighBytes_sliceBytes (n := 16) (w := 2) rfl, signedNumber_toNat (n := 16) (by decide)]
  case setU16 => simp only [specValue, weighBytes_sliceBytes (n := 16) (w := 2) rfl]
  case setI32 => simp only [specValue, weighBytes_sliceBytes (n := 32) (w := 4) rfl, signedNumber_toNat (n := 32) (by decide)]
  case setU32 => simp only [specValue, weighBytes_sliceBytes (n := 32) (w := 4) rfl]
  case setF32 => simp [specValue, weighBytes_sliceBytes (n := 32) (w := 4) rfl]
  case setF64 => simp [specValue, weighBytes_sliceBytes (n := 64) (w := 8) rfl]
  case setStr => rfl

/-! ### GET after SET -/

/-- In an unbounded store no `SET` of allowed sizes fails (R155, R156). -/
theorem storeSet_unbounded {cfg : Config} {r : Record} (h : Settable r) (hbound : cfg.storeMaxRecords = none)
    (x : List Record) : ∃ y, storeSet cfg r x = .ok y := by
  obtain ha | ⟨pre, q, post, rfl, hpre, hq⟩ := key_cases x r.key
  · have hroom : storeIsFull cfg x = false := by simp [storeIsFull, hbound]
    exact ⟨x ++ [r], by rw [storeSet_absent h ha, hroom, if_neg Bool.false_ne_true]⟩
  · rw [storeSet_present h hpre hq]
    split <;> exact ⟨_, rfl⟩

/-- With unique keys, the Record set is the first one with its key. -/
theorem exists_split_of_storeSet {cfg : Config} {r : Record} {x y : List Record} (h : storeSet cfg r x = .ok y)
    (hx : KeysUnique x) : ∃ pre post, y = pre ++ r :: post ∧ ∀ q ∈ pre, q.key ≠ r.key := by
  obtain ⟨-, ⟨habsent, -, rfl⟩ | ⟨pre, q, post, rfl, hpre, hq, ⟨-, rfl⟩ | ⟨-, rfl⟩⟩⟩ := storeSet_ok h
  · exact ⟨x, [], rfl, habsent⟩
  · exact ⟨pre, post, rfl, hpre⟩
  · refine ⟨pre ++ post, [], rfl, fun p hp => ?_⟩
    obtain hp | hp := List.mem_append.mp hp
    · exact hpre p hp
    · have hx : (pre.map Record.key ++ q.key :: post.map Record.key).Nodup := by simpa [KeysUnique] using hx
      obtain ⟨-, hpost, -⟩ := List.nodup_append.mp hx
      intro hkey
      exact (List.nodup_cons.mp hpost).1 (List.mem_map.mpr ⟨p, hp, hkey.trans hq.symm⟩)

/-- Settles O15: the Record set is the one that `GET` finds, its width is its type's, and its bytes read back as the value. -/
theorem setThenGetAnswersTheValue : Obligations.SetThenGetAnswersTheValue := by
  refine ⟨?_, fun o i r v => specValue_of_setRecord⟩
  intro i r v s hr hv hkey hstr hbound hunique
  obtain ⟨y, hy⟩ := storeSet_unbounded (r := r) ⟨hkey, hstr⟩ hbound s.x
  obtain ⟨pre, post, rfl, hpre⟩ := exists_split_of_storeSet hy hunique
  have hwidth := widthMatches_of_setRecord hr
  have hset : exec i s = .next { s with x := pre ++ r :: post, out := .status .ok } := by
    rw [exec_of_setRecord hr, setField_of_ok hy]
  have hget := exec_getInstr r.tag r.key { s with x := pre ++ r :: post, out := .status .ok }
  rw [getField_present rfl hpre rfl, readRecord_of_widthMatches _ hwidth, ← specValue_eq_valueOf _ hwidth,
    specValue_of_setRecord hr hv] at hget
  exact ⟨_, (runAll_cons_of_next hset _).trans (runAll_cons_of_next hget []), rfl, rfl⟩

/-! ### Invariants -/

theorem recordFits_of_setRecord {o : ByteOrder} {i : Instr} {r : Record} (h : setRecord o i = some r) (hs : Settable r) :
    recordFits r = true := by
  obtain ⟨hkey, hstr⟩ := hs
  have hpayload : payloadFits r.tag r.payload.length = true := by
    unfold payloadFits
    split
    · next w hw => rw [(widthMatches_of_setRecord h).length_eq hw, beq_self_eq_true]
    · next hw => exact decide_eq_true (hstr (eq_str_of_fixedWidth_none hw))
  rw [recordFits, hpayload, Bool.and_true]
  exact decide_eq_true hkey

theorem keysUnique_storeSet {cfg : Config} {r : Record} {x y : List Record} (h : storeSet cfg r x = .ok y)
    (hx : KeysUnique x) : KeysUnique y := by
  obtain ⟨-, ⟨habsent, -, rfl⟩ | ⟨pre, q, post, rfl, hpre, hq, ⟨-, rfl⟩ | ⟨-, rfl⟩⟩⟩ := storeSet_ok h
  · simpa [KeysUnique, List.nodup_append] using ⟨hx, habsent⟩
  · simpa [KeysUnique, hq] using hx
  · have hmoved : (pre ++ post ++ [r]).Perm (pre ++ r :: post) := by
      rw [List.append_assoc]
      exact (List.perm_append_singleton r post).append_left pre
    have hkeys : (pre ++ r :: post).map Record.key = (pre ++ q :: post).map Record.key := by simp [hq]
    exact (hmoved.map Record.key).nodup_iff.mpr (hkeys ▸ hx)

/-- What a `SET` leaves, refused or not: each invariant holds of it that held before. -/
theorem setField_keeps {o : ByteOrder} {i : Instr} {r : Record} (hi : setRecord o i = some r) (s : State) :
    (StoreFits s.x → StoreFits (setField r s).x) ∧ (KeysUnique s.x → KeysUnique (setField r s).x) ∧
      (StoreInBounds s.cfg s.x → StoreInBounds (setField r s).cfg (setField r s).x) := by
  obtain ⟨y, hy, hs⟩ | ⟨e, -, hs⟩ := setField_cases r s <;> rw [hs]
  · exact ⟨storeFits_storeSet hy (recordFits_of_setRecord hi (storeSet_ok hy).1), keysUnique_storeSet hy,
      storeInBounds_storeSet hy⟩
  · exact ⟨id, id, id⟩

/-- Settles O16: by what `setField` leaves. -/
theorem setKeepsStoreInvariants : Obligations.SetKeepsStoreInvariants := by
  intro i r s t hi hexec
  rw [exec_of_setRecord hi] at hexec
  cases hexec
  exact setField_keeps hi s

end Sys2Proof.Machine
end

section
/-! The receive framer over runs of bytes: what one byte can do, how many bytes it counts, and the frames that it accepts
(43_rx_framer.md sections 2, 3 and 5, 45_tx_and_host.md R274). -/

namespace Sys2Proof.Machine

/-! ### One byte -/

/-- The framer has taken the byte in: only its own registers move, and the receive buffer is kept, emptied, or longer by the
byte. -/
def FramerAdvanced (b : Byte) (s t : State) : Prop :=
  ∃ r l c p k, (p = s.rxBuf ∨ p = [] ∨ s.rxState = .waitPayload ∧ p = s.rxBuf ++ [b]) ∧
    t = { s with rxState := r, rxLen := l, curCmd := c, rxBuf := p, rxChk := k, out := .raised .ok }

/-- The verdict's three outcomes (43_rx_framer.md R230 to R233). -/
def VerdictReached (s t : State) : Prop :=
  t = raiseRx .checksumMismatch s ∨ t = raiseRx .terminatorMismatch s ∨ t = dispatch s.curCmd s.rxBuf s

section
variable {s : State} (b : Byte)

theorem rxByte_of_idle (h : s.rxState = .idle) : rxByte b s = rxIdle b s :=
  Host.Outcome.next.inj (exec_rxByte_of_idle b h)

theorem rxByte_of_sawHeader (h : s.rxState = .sawHeader) : rxByte b s = rxSawHeader b s :=
  Host.Outcome.next.inj (exec_rxByte_of_sawHeader b h)

theorem rxByte_of_sawPktid (h : s.rxState = .sawPktid) : rxByte b s = rxSawPktid b s :=
  Host.Outcome.next.inj (exec_rxByte_of_sawPktid b h)

theorem rxByte_of_waitLenLo (h : s.rxState = .waitLenLo) : rxByte b s = rxWaitLenLo b s :=
  Host.Outcome.next.inj (exec_rxByte_of_waitLenLo b h)

theorem rxByte_of_waitCmd (h : s.rxState = .waitCmd) : rxByte b s = rxWaitCmd b s :=
  Host.Outcome.next.inj (exec_rxByte_of_waitCmd b h)

theorem rxByte_of_waitPayload (h : s.rxState = .waitPayload) : rxByte b s = rxWaitPayload b s :=
  Host.Outcome.next.inj (exec_rxByte_of_waitPayload b h)

theorem rxByte_of_waitChkHi (h : s.rxState = .waitChkHi) : rxByte b s = rxWaitChkHi b s :=
  Host.Outcome.next.inj (exec_rxByte_of_waitChkHi b h)

theorem rxByte_of_waitChkLo (h : s.rxState = .waitChkLo) : rxByte b s = rxWaitChkLo b s :=
  Host.Outcome.next.inj (exec_rxByte_of_waitChkLo b h)

theorem rxByte_of_waitTerm (h : s.rxState = .waitTerm) : rxByte b s = rxWaitTerm b s :=
  Host.Outcome.next.inj (exec_rxByte_of_waitTerm b h)

end

/-- Everything a byte can do: it is taken in, it is not the marker awaited, it completes a length that is refused, or it brings
the verdict. -/
theorem rxByte_cases (b : Byte) (s : State) :
    s.rxState ≠ .waitTerm ∧ FramerAdvanced b s (rxByte b s) ∨
      (s.rxState = .idle ∨ s.rxState = .sawHeader) ∧ rxByte b s = raiseRx .framingMismatch s ∨
      (s.rxState = .waitLenLo ∧ ∃ l, rxByte b s = raiseRx .lengthError { s with rxLen := l }) ∨
      s.rxState = .waitTerm ∧ VerdictReached s (rxByte b s) := by
  unfold rxByte
  cases hst : s.rxState with
  | idle =>
    by_cases hb : b = headerMarker
    · subst hb
      exact .inl ⟨nofun, _, _, _, _, _, .inl rfl, rxIdle_headerMarker s⟩
    · exact .inr (.inl ⟨.inl rfl, rxIdle_of_ne hb s⟩)
  | sawHeader =>
    by_cases hb : b = packetIdMarker
    · subst hb
      exact .inl ⟨nofun, _, _, _, _, _, .inl rfl, rxSawHeader_packetIdMarker s⟩
    · exact .inr (.inl ⟨.inr rfl, rxSawHeader_of_ne hb s⟩)
  | waitLenLo =>
    by_cases hlen : LengthRefused s.cfg (joinBytes (hiByte s.rxLen) b).toNat
    · exact .inr (.inr (.inl ⟨rfl, _, rxWaitLenLo_of_refused hlen⟩))
    · exact .inl ⟨nofun, _, _, _, _, _, .inl rfl, rxWaitLenLo_of_not_refused hlen⟩
  | waitTerm =>
    obtain ⟨-, h⟩ | ⟨-, -, h⟩ | ⟨-, -, h⟩ := rxWaitTerm_cases b s
    · exact .inr (.inr (.inr ⟨rfl, .inl h⟩))
    · exact .inr (.inr (.inr ⟨rfl, .inr (.inl h)⟩))
    · exact .inr (.inr (.inr ⟨rfl, .inr (.inr h)⟩))
  | waitCmd => exact .inl ⟨nofun, _, _, _, _, _, .inr (.inl rfl), rfl⟩
  | waitPayload => exact .inl ⟨nofun, _, _, _, _, _, .inr (.inr ⟨hst, rfl⟩), rfl⟩
  | sawPktid | waitChkHi | waitChkLo => exact .inl ⟨nofun, _, _, _, _, _, .inl rfl, rfl⟩

/-- Settles O31: before the verdict a byte is taken in, discarded, or completes a refused length. -/
theorem framerIsQuietBeforeTheVerdict : Obligations.FramerIsQuietBeforeTheVerdict := by
  intro b s hst
  refine ⟨rxByte b s, exec_rxByte b s, ?_⟩
  obtain ⟨-, r, l, c, p, k, -, h⟩ | ⟨-, h⟩ | ⟨hlen, l, h⟩ | ⟨hterm, -⟩ := rxByte_cases b s
  · rw [h]
    exact ⟨rfl, fun _ => ⟨rfl, rfl⟩, .inl rfl, .inl rfl⟩
  · rw [h]
    exact ⟨rfl, fun _ => ⟨rfl, rfl⟩, .inl rfl, .inl rfl⟩
  · rw [h]
    exact ⟨rfl, fun hne => absurd hlen hne, .inr rfl, .inr rfl⟩
  · exact absurd hterm hst

/-! ### Runs of bytes -/

/-- The state after the receive steps of some bytes, none of them taken from the transport's queue. -/
def afterBytes (bytes : Bytes) (s : State) : State := bytes.foldl (fun s b => rxByte b s) s

@[simp] theorem afterBytes_nil (s : State) : afterBytes [] s = s := rfl

@[simp] theorem afterBytes_cons (b : Byte) (bytes : Bytes) (s : State) :
    afterBytes (b :: bytes) s = afterBytes bytes (rxByte b s) := rfl

theorem afterBytes_append (a b : Bytes) (s : State) : afterBytes (a ++ b) s = afterBytes b (afterBytes a s) :=
  List.foldl_append

theorem receiveAll_eq_next (bytes : Bytes) (s : State) : receiveAll bytes s = .next (afterBytes bytes s) := by
  induction bytes generalizing s with
  | nil => rfl
  | cons b bytes ih => exact (runAll_cons_of_next (exec_rxByte b s) _).trans (ih _)

/-! ### The framer's registers agree with its state -/

theorem lengthChecked_iff {s : State} :
    lengthChecked s = true ↔ lenOverhead ≤ s.rxLen.toNat ∧ payloadLen s ≤ s.cfg.rxMaxPayload := by
  simp [lengthChecked]

theorem framerSound_of_idle {s : State} (h : s.rxState = .idle) : framerSound s = true := by
  rw [framerSound, h]

theorem lengthChecked_of_not_refused {s : State} (h : ¬ LengthRefused s.cfg s.rxLen.toNat) : lengthChecked s = true := by
  obtain ⟨hmin, hcap⟩ := not_or.mp h
  exact lengthChecked_iff.mpr ⟨Nat.not_lt.mp hmin, Nat.not_lt.mp hcap⟩

theorem dispatch_rxState (c : Byte) (p : Bytes) (s : State) : (dispatch c p s).rxState = .idle := by
  obtain ⟨-, h⟩ | ⟨-, h⟩ | ⟨-, h⟩ | ⟨-, h⟩ := dispatch_cases c p s <;> rw [h]
  · obtain ⟨n, ds, f, fs, hs, -⟩ := onGetInfo_cases s
    rw [hs]
  · obtain ⟨n, ds, -, hs⟩ := onStopData_cases s
    rw [hs]
  · obtain ⟨-, hs⟩ | ⟨y, -, -, hs⟩ | ⟨e, -, he, hs⟩ := onSendData_cases p s <;> rw [hs]
    · rfl
    · rfl
    · rw [raiseRx_of_decode (decodeLoop_error he)]
      rfl
  · rfl

/-- After the verdict the framer is idle, whatever it was (43_rx_framer.md R230 to R232). -/
theorem rxState_of_verdictReached {s t : State} (h : VerdictReached s t) : t.rxState = .idle := by
  obtain rfl | rfl | rfl := h
  · rfl
  · rfl
  · exact dispatch_rxState _ _ _

theorem rxByte_rxState_of_waitTerm {s : State} (h : s.rxState = .waitTerm) (b : Byte) : (rxByte b s).rxState = .idle := by
  obtain ⟨hne, -⟩ | ⟨hst, -⟩ | ⟨hst, -⟩ | ⟨-, hv⟩ := rxByte_cases b s
  · exact absurd h hne
  · obtain hst | hst := hst <;> exact absurd (hst.symm.trans h) (by decide)
  · exact absurd (hst.symm.trans h) (by decide)
  · exact rxState_of_verdictReached hv

theorem rxWaitCmd_of_no_payload {s : State} (h : payloadLen s = 0) (b : Byte) :
    rxWaitCmd b s = rxDone { s with curCmd := b, rxBuf := [], rxState := .waitChkHi } := by
  rw [rxWaitCmd, if_pos h]

theorem rxWaitCmd_of_payload {s : State} (h : payloadLen s ≠ 0) (b : Byte) :
    rxWaitCmd b s = rxDone { s with curCmd := b, rxBuf := [], rxState := .waitPayload } := by
  rw [rxWaitCmd, if_neg h]

theorem rxWaitPayload_of_last {s : State} (h : s.rxBuf.length + 1 = payloadLen s) (b : Byte) :
    rxWaitPayload b s = rxDone { s with rxBuf := s.rxBuf ++ [b], rxState := .waitChkHi } := by
  rw [rxWaitPayload, List.length_append, List.length_singleton, if_pos h]

theorem rxWaitPayload_of_not_last {s : State} (h : s.rxBuf.length + 1 ≠ payloadLen s) (b : Byte) :
    rxWaitPayload b s = rxDone { s with rxBuf := s.rxBuf ++ [b], rxState := .waitPayload } := by
  rw [rxWaitPayload, List.length_append, List.length_singleton, if_neg h]

/-- Every receive step keeps the agreement (10_state.md R28, R29). -/
theorem framerSound_rxByte {s : State} (h : framerSound s = true) (b : Byte) : framerSound (rxByte b s) = true := by
  unfold framerSound at h
  cases hst : s.rxState <;> simp only [hst] at h
  case idle =>
    rw [rxByte_of_idle b hst]
    by_cases hb : b = headerMarker
    · rw [hb, rxIdle_headerMarker]; rfl
    · rw [rxIdle_of_ne hb]; rfl
  case sawHeader =>
    rw [rxByte_of_sawHeader b hst]
    by_cases hb : b = packetIdMarker
    · rw [hb, rxSawHeader_packetIdMarker]; rfl
    · rw [rxSawHeader_of_ne hb]; rfl
  case sawPktid => rw [rxByte_of_sawPktid b hst]; rfl
  case waitLenLo =>
    rw [rxByte_of_waitLenLo b hst]
    by_cases hlen : LengthRefused s.cfg (joinBytes (hiByte s.rxLen) b).toNat
    · rw [rxWaitLenLo_of_refused hlen]; rfl
    · rw [rxWaitLenLo_of_not_refused hlen]
      exact lengthChecked_of_not_refused hlen
  case waitCmd =>
    rw [rxByte_of_waitCmd b hst]
    by_cases hp : payloadLen s = 0
    · rw [rxWaitCmd_of_no_payload hp]
      exact Bool.and_eq_true_iff.mpr ⟨h, decide_eq_true hp.symm⟩
    · rw [rxWaitCmd_of_payload hp]
      exact Bool.and_eq_true_iff.mpr ⟨h, decide_eq_true (Nat.pos_of_ne_zero hp)⟩
  case waitPayload =>
    rw [rxByte_of_waitPayload b hst]
    obtain ⟨hlen, hlt⟩ := Bool.and_eq_true_iff.mp h
    have hlt := of_decide_eq_true hlt
    by_cases hlast : s.rxBuf.length + 1 = payloadLen s
    · rw [rxWaitPayload_of_last hlast]
      exact Bool.and_eq_true_iff.mpr ⟨hlen, decide_eq_true (List.length_append.trans hlast)⟩
    · rw [rxWaitPayload_of_not_last hlast]
      refine Bool.and_eq_true_iff.mpr ⟨hlen, decide_eq_true ?_⟩
      exact lt_of_le_of_ne (List.length_append.trans_le hlt) fun he => hlast (List.length_append.symm.trans he)
  case waitChkHi => rw [rxByte_of_waitChkHi b hst]; exact h
  case waitChkLo => rw [rxByte_of_waitChkLo b hst]; exact h
  case waitTerm => exact framerSound_of_idle (rxByte_rxState_of_waitTerm hst b)

/-! ### The declared length is counted (R235) -/

/-- How many bytes the framer takes in before it is idle again, once the declared length has been checked. -/
def bytesToVerdict (s : State) : Nat :=
  match s.rxState with
  | .waitCmd => payloadLen s + 4
  | .waitPayload => payloadLen s - s.rxBuf.length + 3
  | .waitChkHi => 3
  | .waitChkLo => 2
  | .waitTerm => 1
  | .idle | .sawHeader | .sawPktid | .waitLenLo => 0

theorem rxState_ne_idle_of_bytesToVerdict {s : State} (h : 0 < bytesToVerdict s) : s.rxState ≠ .idle := by
  intro hidle
  rw [bytesToVerdict, hidle] at h
  exact Nat.lt_irrefl 0 h

/-- Before the verdict each byte counts for one, whatever it is. -/
theorem bytesToVerdict_rxByte {s : State} (hs : framerSound s = true) (h : 1 < bytesToVerdict s) (b : Byte) :
    bytesToVerdict (rxByte b s) + 1 = bytesToVerdict s := by
  cases hst : s.rxState
  case idle | sawHeader | sawPktid | waitLenLo | waitTerm => simp [bytesToVerdict, hst] at h
  case waitCmd =>
    have hbefore : bytesToVerdict s = payloadLen s + 4 := by rw [bytesToVerdict, hst]
    rw [rxByte_of_waitCmd b hst, hbefore]
    by_cases hp : payloadLen s = 0
    · rw [rxWaitCmd_of_no_payload hp, hp]
      rfl
    · rw [rxWaitCmd_of_payload hp]
      rfl
  case waitPayload =>
    have hbefore : bytesToVerdict s = payloadLen s - s.rxBuf.length + 3 := by rw [bytesToVerdict, hst]
    have hlt : s.rxBuf.length < payloadLen s := by
      rw [framerSound, hst] at hs
      exact of_decide_eq_true (Bool.and_eq_true_iff.mp hs).2
    rw [rxByte_of_waitPayload b hst, hbefore]
    by_cases hlast : s.rxBuf.length + 1 = payloadLen s
    · rw [rxWaitPayload_of_last hlast, ← hlast, Nat.add_sub_cancel_left]
      rfl
    · have hafter : bytesToVerdict (rxWaitPayload b s) = payloadLen s - (s.rxBuf ++ [b]).length + 3 := by
        rw [rxWaitPayload_of_not_last hlast]
        rfl
      rw [hafter, List.length_append, List.length_singleton]
      omega
  case waitChkHi =>
    have hbefore : bytesToVerdict s = 3 := by rw [bytesToVerdict, hst]
    rw [rxByte_of_waitChkHi b hst, hbefore]
    rfl
  case waitChkLo =>
    have hbefore : bytesToVerdict s = 2 := by rw [bytesToVerdict, hst]
    rw [rxByte_of_waitChkLo b hst, hbefore]
    rfl

theorem rxState_eq_waitTerm_of_bytesToVerdict {s : State} (h : bytesToVerdict s = 1) : s.rxState = .waitTerm := by
  unfold bytesToVerdict at h
  cases hst : s.rxState <;> simp only [hst] at h
  case waitTerm => rfl
  all_goals omega

/-- A run of fewer bytes than are counted leaves the framer waiting for the others. -/
theorem bytesToVerdict_afterBytes (bytes : Bytes) {s : State} (hs : framerSound s = true)
    (h : bytes.length < bytesToVerdict s) :
    bytesToVerdict (afterBytes bytes s) + bytes.length = bytesToVerdict s := by
  induction bytes generalizing s with
  | nil => rfl
  | cons b bytes ih =>
    rw [List.length_cons] at h ⊢
    have hstep := bytesToVerdict_rxByte hs (by omega) b
    have hrest := ih (framerSound_rxByte hs b) (by omega)
    rw [afterBytes_cons]
    omega

theorem afterBytes_rxState_idle {bytes : Bytes} {s : State} (hs : framerSound s = true)
    (h : bytes.length = bytesToVerdict s) (hne : bytes ≠ []) : (afterBytes bytes s).rxState = .idle := by
  obtain ⟨init, b, rfl⟩ : ∃ init b, bytes = init ++ [b] := ⟨_, _, (List.dropLast_append_getLast hne).symm⟩
  rw [List.length_append, List.length_singleton] at h
  have hcount := bytesToVerdict_afterBytes init hs (by omega)
  rw [afterBytes_append]
  exact rxByte_rxState_of_waitTerm (rxState_eq_waitTerm_of_bytesToVerdict (by omega)) b

/-- The two length bytes, when the length they declare is accepted (43_rx_framer.md R224, R225). -/
theorem afterBytes_length {s : State} (hst : s.rxState = .sawPktid) {hi lo : Byte}
    (h : ¬ LengthRefused s.cfg (joinBytes hi lo).toNat) :
    afterBytes [hi, lo] s = { s with rxLen := joinBytes hi lo, rxState := .waitCmd, out := .raised .ok } := by
  have hhi : rxByte hi s = { s with rxLen := joinBytes hi 0x00#8, rxState := .waitLenLo, out := .raised .ok } := by
    rw [rxByte_of_sawPktid hi hst]
    rfl
  have hjoin : joinBytes (hiByte (joinBytes hi 0x00#8)) lo = joinBytes hi lo := by rw [hiByte_joinBytes]
  have hlo := rxWaitLenLo_of_not_refused (b := lo)
    (s := { s with rxLen := joinBytes hi 0x00#8, rxState := .waitLenLo, out := .raised .ok }) (hjoin.symm ▸ h)
  rw [afterBytes_cons, hhi, afterBytes_cons, afterBytes_nil]
  exact hlo.trans (by rw [hjoin]; rfl)

/-- Settles O33: after an accepted length the framer counts its bytes. -/
theorem framerCountsTheDeclaredLength : Obligations.FramerCountsTheDeclaredLength := by
  intro hi lo body s hst hmin hcap hbody
  have hnum := joinBytes_toNat hi lo
  have hlen : ¬ LengthRefused s.cfg (joinBytes hi lo).toNat := hnum ▸ not_lengthRefused hmin hcap
  have hstart := afterBytes_length hst hlen
  generalize hu : ({ s with rxLen := joinBytes hi lo, rxState := .waitCmd, out := .raised .ok } : State) = u at hstart
  have hsound : framerSound u = true := by
    subst hu
    exact lengthChecked_of_not_refused hlen
  have hcount : bytesToVerdict u = body.length := by
    subst hu
    have hpayload : bytesToVerdict { s with rxLen := joinBytes hi lo, rxState := .waitCmd, out := .raised .ok } =
        (joinBytes hi lo).toNat - 4 + 4 := rfl
    rw [hpayload, hnum, hbody]
    omega
  have hrun : ∀ rest, receiveAll (hi :: lo :: rest) s = .next (afterBytes rest u) := by
    intro rest
    rw [receiveAll_eq_next, ← hstart, ← afterBytes_append]
    rfl
  refine ⟨⟨_, hrun body, afterBytes_rxState_idle hsound hcount.symm ?_⟩, fun n hn => ⟨_, hrun _, ?_⟩⟩
  · exact List.ne_nil_of_length_pos (by omega)
  · have htake : (body.take n).length = n := List.length_take_of_le hn.le
    have hleft := bytesToVerdict_afterBytes (body.take n) hsound (by omega)
    exact rxState_ne_idle_of_bytesToVerdict (by omega)

end Sys2Proof.Machine
end

section
/-! Whole frames: the bytes of a frame run its command, and the frame that a `SEND` wrote is accepted (30_encoding.md section 2,
43_rx_framer.md sections 2, 3 and 5, 45_tx_and_host.md R274). -/

namespace Sys2Proof.Machine

/-! ### The fields of a frame, in order -/

theorem afterBytes_markers {s : State} (hst : s.rxState = .idle) :
    afterBytes [headerMarker, packetIdMarker] s = { s with rxState := .sawPktid, out := .raised .ok } := by
  rw [afterBytes_cons, rxByte_of_idle _ hst, rxIdle_headerMarker]
  rfl

/-- The payload is taken in by count. -/
theorem afterBytes_payload (p : Bytes) {s : State} (hst : s.rxState = .waitPayload) (hne : p ≠ [])
    (hlen : s.rxBuf.length + p.length = payloadLen s) :
    afterBytes p s = { s with rxBuf := s.rxBuf ++ p, rxState := .waitChkHi, out := .raised .ok } := by
  induction p generalizing s with
  | nil => exact absurd rfl hne
  | cons b p ih =>
    rw [List.length_cons] at hlen
    rw [afterBytes_cons, rxByte_of_waitPayload b hst]
    by_cases hp : p = []
    · subst hp
      rw [rxWaitPayload_of_last hlen]
      rfl
    · have hpos := List.length_pos_iff.mpr hp
      rw [rxWaitPayload_of_not_last (by omega), ih rfl hp]
      · simp [rxDone, answer]
      · rw [rxDone_rxBuf, List.length_append, List.length_singleton, Nat.add_assoc, Nat.add_comm 1]
        exact hlen

/-- The command byte and the payload that the declared length announces. -/
theorem afterBytes_command {s : State} (hst : s.rxState = .waitCmd) (cmd : Byte) {p : Bytes}
    (hlen : p.length = payloadLen s) :
    afterBytes (cmd :: p) s =
      { s with curCmd := cmd, rxBuf := p, rxState := .waitChkHi, out := .raised .ok } := by
  rw [afterBytes_cons, rxByte_of_waitCmd cmd hst]
  by_cases hp : p = []
  · subst hp
    rw [rxWaitCmd_of_no_payload hlen.symm]
    rfl
  · have hpos := List.length_pos_iff.mpr hp
    rw [rxWaitCmd_of_payload (by omega), afterBytes_payload p rfl hp]
    · rfl
    · rw [rxDone_rxBuf, List.length_nil, Nat.zero_add]
      exact hlen

/-- The good checksum and the terminator bring the dispatch. -/
theorem afterBytes_trailer {s : State} (hst : s.rxState = .waitChkHi) :
    afterBytes [hiByte (crc s.rxBuf), loByte (crc s.rxBuf), terminatorMarker] s =
      dispatch s.curCmd s.rxBuf { s with rxChk := crc s.rxBuf, rxState := .waitTerm, out := .raised .ok } := by
  have hjoin : joinBytes (hiByte (joinBytes (hiByte (crc s.rxBuf)) 0x00#8)) (loByte (crc s.rxBuf)) = crc s.rxBuf := by
    rw [hiByte_joinBytes, joinBytes_hiByte_loByte]
  have hfield : afterBytes [hiByte (crc s.rxBuf), loByte (crc s.rxBuf)] s =
      { s with rxChk := crc s.rxBuf, rxState := .waitTerm, out := .raised .ok } := by
    rw [afterBytes_cons, rxByte_of_waitChkHi _ hst]
    exact congrArg (fun k => ({ s with rxChk := k, rxState := .waitTerm, out := .raised .ok } : State)) hjoin
  have hsplit : [hiByte (crc s.rxBuf), loByte (crc s.rxBuf), terminatorMarker] =
      [hiByte (crc s.rxBuf), loByte (crc s.rxBuf)] ++ [terminatorMarker] := rfl
  rw [hsplit, afterBytes_append, hfield, afterBytes_cons, afterBytes_nil, rxByte_of_waitTerm _ rfl]
  obtain ⟨hcrc, -⟩ | ⟨-, hterm, -⟩ | ⟨-, -, h⟩ := rxWaitTerm_cases terminatorMarker
    { s with rxChk := crc s.rxBuf, rxState := .waitTerm, out := .raised .ok }
  · exact absurd rfl hcrc
  · exact absurd rfl hterm
  · exact h

/-! ### What a receive step does not read -/

/-- Other pending bytes, planned turns and last output: what a receive step neither reads nor, but for its own output, writes. -/
def outside (q : Bytes) (ts : List Turn) (o : Output) (s : State) : State := { s with rxFifo := q, turns := ts, out := o }

section
variable (q : Bytes) (ts : List Turn) (o : Output)

theorem readTime_outside (s : State) : readTime (outside q ts o s) = outside q ts o (readTime s) := by
  cases h : s.timeAdvance with
  | nil =>
    rw [readTime_of_nil s h]
    exact readTime_of_nil _ h
  | cons d ds =>
    rw [readTime_of_cons s h]
    exact readTime_of_cons _ h

theorem transmit_outside (c : Byte) (s : State) :
    transmit c (outside q ts o s) = ((transmit c s).1, outside q ts o (transmit c s).2) := by
  have hwindow : windowActive (outside q ts o s) = windowActive s := rfl
  obtain ⟨hw, h⟩ | ⟨hw, hlen, h⟩ | ⟨hw, hlen, h⟩ := transmit_cases c s <;> rw [h]
  · exact transmit_of_windowActive (hwindow.trans hw) c
  · exact transmit_of_lt_length (hwindow.trans hw) hlen c
  · exact transmit_of_length_le (hwindow.trans hw) hlen c

theorem onGetInfo_outside (s : State) :
    onGetInfo (outside q ts o s) = outside q ts (.raised .ok) (onGetInfo s) := by
  have hread : readTime { acceptFrame cmdGetInfo (outside q ts o s) with x := descriptorStore s.cfg s.desc } =
      outside q ts o (readTime { acceptFrame cmdGetInfo s with x := descriptorStore s.cfg s.desc }) :=
    readTime_outside q ts o { acceptFrame cmdGetInfo s with x := descriptorStore s.cfg s.desc }
  have hsent : getInfoResponse (acceptFrame cmdGetInfo (outside q ts o s)) =
      outside q ts o (getInfoResponse (acceptFrame cmdGetInfo s)) := by
    refine (congrArg (fun u => (transmit cmdSendInfo u).2) hread).trans ?_
    rw [transmit_outside]
    rfl
  rw [onGetInfo, hsent]
  rfl

theorem onStopData_outside (s : State) :
    onStopData (outside q ts o s) = outside q ts (.raised .ok) (onStopData s) := by
  have hread := readTime_outside q ts o (acceptFrame cmdStopData s)
  have haccept : acceptFrame cmdStopData (outside q ts o s) = outside q ts o (acceptFrame cmdStopData s) := rfl
  rw [onStopData, startSuppression, haccept, hread]
  rfl

theorem onSendData_outside (p : Bytes) (s : State) :
    onSendData p (outside q ts o s) = outside q ts (onSendData p s).out (onSendData p s) := by
  have hcfg : (outside q ts o s).cfg = s.cfg := rfl
  cases p with
  | nil => rfl
  | cons b p =>
    simp only [onSendData, hcfg]
    cases decodePayload s.cfg (b :: p) with
    | ok y => rfl
    | error e => cases e <;> rfl

theorem dispatch_outside (c : Byte) (p : Bytes) (s : State) :
    dispatch c p (outside q ts o s) = outside q ts (dispatch c p s).out (dispatch c p s) := by
  unfold dispatch
  split
  · exact onGetInfo_outside q ts o s
  · split
    · exact onStopData_outside q ts o s
    · split
      · exact onSendData_outside q ts o p s
      · rfl

theorem rxWaitTerm_outside (b : Byte) (s : State) :
    rxWaitTerm b (outside q ts o s) = outside q ts (rxWaitTerm b s).out (rxWaitTerm b s) := by
  obtain ⟨hcrc, h⟩ | ⟨hcrc, hb, h⟩ | ⟨hcrc, hb, h⟩ := rxWaitTerm_cases b s <;> rw [h]
  · exact if_pos hcrc
  · exact (if_neg (not_not.mpr hcrc)).trans (if_pos hb)
  · exact ((if_neg (not_not.mpr hcrc)).trans (if_neg (not_not.mpr hb))).trans (dispatch_outside q ts o _ _ s)

/-- A receive step does the same whatever is pending behind its byte and whatever turns are planned. -/
theorem rxByte_outside (b : Byte) (s : State) :
    rxByte b (outside q ts o s) = outside q ts (rxByte b s).out (rxByte b s) := by
  have houtside : (outside q ts o s).rxState = s.rxState := rfl
  cases hst : s.rxState with
  | idle =>
    rw [rxByte_of_idle b hst, rxByte_of_idle b (houtside.trans hst)]
    by_cases hb : b = headerMarker
    · rw [hb, rxIdle_headerMarker, rxIdle_headerMarker]
      rfl
    · rw [rxIdle_of_ne hb, rxIdle_of_ne hb]
      rfl
  | sawHeader =>
    rw [rxByte_of_sawHeader b hst, rxByte_of_sawHeader b (houtside.trans hst)]
    by_cases hb : b = packetIdMarker
    · rw [hb, rxSawHeader_packetIdMarker, rxSawHeader_packetIdMarker]
      rfl
    · rw [rxSawHeader_of_ne hb, rxSawHeader_of_ne hb]
      rfl
  | sawPktid =>
    rw [rxByte_of_sawPktid b hst, rxByte_of_sawPktid b (houtside.trans hst)]
    rfl
  | waitLenLo =>
    rw [rxByte_of_waitLenLo b hst, rxByte_of_waitLenLo b (houtside.trans hst)]
    by_cases hlen : LengthRefused s.cfg (joinBytes (hiByte s.rxLen) b).toNat
    · rw [rxWaitLenLo_of_refused hlen]
      exact rxWaitLenLo_of_refused hlen
    · rw [rxWaitLenLo_of_not_refused hlen]
      exact rxWaitLenLo_of_not_refused hlen
  | waitCmd =>
    rw [rxByte_of_waitCmd b hst, rxByte_of_waitCmd b (houtside.trans hst)]
    rfl
  | waitPayload =>
    rw [rxByte_of_waitPayload b hst, rxByte_of_waitPayload b (houtside.trans hst)]
    rfl
  | waitChkHi =>
    rw [rxByte_of_waitChkHi b hst, rxByte_of_waitChkHi b (houtside.trans hst)]
    rfl
  | waitChkLo =>
    rw [rxByte_of_waitChkLo b hst, rxByte_of_waitChkLo b (houtside.trans hst)]
    rfl
  | waitTerm =>
    rw [rxByte_of_waitTerm b hst, rxByte_of_waitTerm b (houtside.trans hst)]
    exact rxWaitTerm_outside q ts o b s

end

/-- A good frame's command does the same at the terminator, after a byte's output, as by itself in `IDLE` (log 5). -/
theorem dispatch_with_rxState_out (c : Byte) (p : Bytes) (r : RxState) (o : Output) (s : State) :
    dispatch c p { s with rxState := r, out := o } = dispatch c p s := by
  have hrxState : dispatch c p { s with rxState := r } = dispatch c p s := by
    unfold dispatch
    split
    · rfl
    · split
      · rfl
      · split
        · cases p <;> rfl
        · rfl
  have houtside := dispatch_outside s.rxFifo s.turns o c p { s with rxState := r }
  rw [hrxState] at houtside
  refine houtside.trans ?_
  have hfifo := dispatch_rxFifo c p s
  have hturns := dispatch_turns c p s
  rw [← hfifo, ← hturns]
  rfl

/-! ### The frame -/

/-- The bytes of a frame whose payload fits the receive buffer bring its dispatch, its fields in the framer's registers. -/
theorem afterBytes_encodeFrame {s : State} (hst : s.rxState = .idle) (cmd : Byte) {p : Bytes} (hmax : p.length ≤ payloadMax)
    (hcap : p.length ≤ s.cfg.rxMaxPayload) :
    afterBytes (encodeFrame cmd p) s =
      dispatch cmd p { s with
        rxLen := BitVec.ofNat 16 (p.length + lenOverhead), curCmd := cmd, rxBuf := p, rxChk := crc p } := by
  have hnum : (BitVec.ofNat 16 (p.length + lenOverhead)).toNat = p.length + 4 := by
    rw [BitVec.toNat_ofNat]
    exact Nat.mod_eq_of_lt (by unfold lenOverhead; unfold payloadMax at hmax; omega)
  generalize hL : BitVec.ofNat 16 (p.length + lenOverhead) = len at hnum
  have hframe : encodeFrame cmd p = [headerMarker, packetIdMarker] ++ ([hiByte len, loByte len] ++ ((cmd :: p) ++
      [hiByte (crc p), loByte (crc p), terminatorMarker])) := by
    rw [encodeFrame, hL]
    simp
  have haccepted : ¬ LengthRefused s.cfg (joinBytes (hiByte len) (loByte len)).toNat := by
    rw [joinBytes_hiByte_loByte, hnum]
    exact not_lengthRefused (Nat.le_add_left 4 _) hcap
  have hlength := afterBytes_length (s := { s with rxState := .sawPktid, out := .raised .ok }) rfl haccepted
  have hpayload : p.length = len.toNat - lenOverhead := by rw [hnum, Nat.add_sub_cancel]
  have hcommand := afterBytes_command (s := { s with rxLen := len, rxState := .waitCmd, out := .raised .ok }) rfl cmd hpayload
  have htrailer := afterBytes_trailer
    (s := { s with rxLen := len, curCmd := cmd, rxBuf := p, rxState := .waitChkHi, out := .raised .ok }) rfl
  rw [joinBytes_hiByte_loByte] at hlength
  rw [hframe, afterBytes_append, afterBytes_markers hst, afterBytes_append, hlength, afterBytes_append, hcommand, htrailer]
  exact dispatch_with_rxState_out cmd p .waitTerm (.raised .ok) { s with rxLen := len, curCmd := cmd, rxBuf := p, rxChk := crc p }

/-- Settles O32: the frame's bytes bring the dispatch that its wire command is. -/
theorem frameBytesRunTheirCommand : Obligations.FrameBytesRunTheirCommand := by
  intro cmd p s hst hmax hcap
  rw [receiveAll_eq_next, specFrame_eq_encodeFrame, afterBytes_encodeFrame hst cmd hmax hcap, exec_wireInstr,
    crc_eq_specCrc]

/-! ### The frame that a SEND wrote -/

/-- A `SEND` that answers OK has appended the frame of the store's encoding (45_tx_and_host.md R270). -/
theorem txLog_of_send_ok {cmd : Byte} {s t : State} (h : exec (.send cmd) s = .next t) (hout : t.out = .status .ok) :
    t.txLog = s.txLog ++ [encodeFrame cmd (encodeStore s.cfg s.x)] ∧ (encodeStore s.cfg s.x).length ≤ payloadMax := by
  obtain ⟨-, htx⟩ | ⟨-, -, htx⟩ | ⟨-, hlen, htx⟩ := transmit_cases cmd (readTime s) <;>
    rw [exec_send_of_transmit htx] at h <;> cases h
  · cases hout
  · cases hout
  · rw [encodeStore_readTime] at hlen ⊢
    exact ⟨by rw [readTime_txLog], hlen⟩

theorem encodeRecord_congr {cfg cfg' : Config} (h : cfg'.tagCode = cfg.tagCode) (r : Record) :
    encodeRecord cfg' r = encodeRecord cfg r := by
  have htag : tagCode cfg' r.tag = tagCode cfg r.tag := by
    unfold tagCode
    rw [h]
  rw [encodeRecord_eq, encodeRecord_eq, htag]

/-- Only `TAG_CODE` matters to an encoding (42_codec.md R190). -/
theorem encodeStore_congr {cfg cfg' : Config} (h : cfg'.tagCode = cfg.tagCode) (x : List Record) :
    encodeStore cfg' x = encodeStore cfg x :=
  congrArg (List.flatMap · x) (funext (encodeRecord_congr h))

theorem onSendData_encodeStore {s : State} (hc : s.cfg.tagCode.toList.Nodup) {ys : List Record} (hne : ys ≠ [])
    (hy : StoreFits ys) (hb : StoreInBounds s.cfg ys) :
    onSendData (encodeStore s.cfg ys) s =
      { s with
        x := ys, dataAvailable := true, readFlag := false,
        rxLast := .packetComplete, lastCmd := cmdSendData, rxState := .idle, out := .raised .ok } :=
  Host.Outcome.next.inj (exec_sendData_of_ok (encodeStore_ne_nil _ hne) (decodePayload_encodeStore_eq_ok hc hy hb))

/-- A good frame whose payload encodes Records is accepted with its command, whatever that is (43_rx_framer.md R232). -/
theorem dispatch_encodeStore_accepts {s : State} (hc : s.cfg.tagCode.toList.Nodup) {ys : List Record} (hy : StoreFits ys)
    (hb : StoreInBounds s.cfg ys) (cmd : Byte) :
    (dispatch cmd (encodeStore s.cfg ys) s).rxLast = .packetComplete ∧
      (dispatch cmd (encodeStore s.cfg ys) s).lastCmd = cmd := by
  obtain ⟨rfl, h⟩ | ⟨rfl, h⟩ | ⟨rfl, h⟩ | ⟨-, h⟩ := dispatch_cases cmd (encodeStore s.cfg ys) s <;> rw [h]
  · obtain ⟨n, ds, f, fs, hs, -⟩ := onGetInfo_cases s
    rw [hs]
    exact ⟨rfl, rfl⟩
  · obtain ⟨n, ds, -, hs⟩ := onStopData_cases s
    rw [hs]
    exact ⟨rfl, rfl⟩
  · by_cases hne : ys = []
    · subst hne
      exact ⟨rfl, rfl⟩
    · rw [onSendData_encodeStore hc hne hy hb]
      exact ⟨rfl, rfl⟩
  · exact ⟨rfl, rfl⟩

theorem take_drop_encodeFrame (cmd : Byte) (p : Bytes) :
    ((encodeFrame cmd p).drop 5).take ((encodeFrame cmd p).length - 8) = p := by
  rw [encodeFrame_length, Nat.add_sub_cancel]
  simp [encodeFrame]

/-- Settles O34: the frame written is that of the store's encoding, its bytes bring its dispatch, and the payload decodes. -/
theorem sentFrameReproducesTheStore : Obligations.SentFrameReproducesTheStore := by
  intro cmd s t r hc hcodes hx hb hidle hcap hsend hout
  obtain ⟨hlog, hmax⟩ := txLog_of_send_ok hsend hout
  rw [flatMap_specRecord] at hcap
  rw [← encodeStore_congr hcodes] at hlog hmax hcap
  rw [← hcodes] at hc
  refine ⟨_, _, hlog, receiveAll_eq_next _ r, ?_⟩
  rw [afterBytes_encodeFrame hidle cmd hmax hcap, take_drop_encodeFrame]
  generalize hv : ({ r with
    rxLen := BitVec.ofNat 16 ((encodeStore r.cfg s.x).length + lenOverhead), curCmd := cmd,
    rxBuf := encodeStore r.cfg s.x, rxChk := crc (encodeStore r.cfg s.x) } : State) = v
  have hcfg : v.cfg = r.cfg := by rw [← hv]
  have hstore := exec_decode_of_ok (s := r) (decodePayload_encodeStore_eq_ok hc hx hb)
  rw [← hcfg] at hc hb ⊢
  obtain ⟨hlast, hcmd⟩ := dispatch_encodeStore_accepts hc hx hb cmd
  refine ⟨dispatch_rxState _ _ _, hlast, hcmd, ?_, hcfg ▸ hstore⟩
  rintro rfl hne
  have hdispatch : dispatch cmdSendData (encodeStore v.cfg s.x) v = onSendData (encodeStore v.cfg s.x) v := rfl
  rw [hdispatch, onSendData_encodeStore hc hne hx hb]
  exact ⟨rfl, rfl, rfl⟩

end Sys2Proof.Machine
end

section
/-! What an instruction can do, by family: one inversion lemma for `exec`, and what follows from it for the framer's registers,
the latch and `read_flag` (10_state.md R27, R37, 45_tx_and_host.md R283). -/

namespace Sys2Proof.Machine

/-! ### The families of instructions -/

/-- What each family of instructions leaves of a state. -/
inductive Effect : Instr → State → State → Prop where
  /-- Host operations that only answer: `FIND`, `ENCODE`, `CRC_CALC`, `AVAILABLE`, `STATUS_READ`, `DESC_GET`, and a refused
  `DESC_SET` of a string. -/
  | answers {i : Instr} {s : State} (hi : spaceOf i = .hostOp) (o : Output) : Effect i s (answer o s)
  | sets {i : Instr} {r : Record} {s : State} (hi : setRecord s.cfg.valueOrder i = some r) : Effect i s (setField r s)
  | gets (t : Tag) (k : Bytes) (s : State) : Effect (getInstr t k) s (getField t k s)
  | clears (s : State) : Effect .clear s { s with x := [], out := .silent }
  | decodes (b : Bytes) (s : State) : Effect (.decode b) s (decodeInto b s)
  | sends (c : Byte) (s : State) :
      Effect (.send c) s (answer (.status (transmit c (readTime s)).1) (transmit c (readTime s)).2)
  | clearsErrors (s : State) : Effect .errClear s { s with err := 0, out := .silent }
  /-- `DESC_SET`: a descriptor within bounds stays so. -/
  | describes {i : Instr} {d : Descriptor} {s : State} (hi : spaceOf i = .hostOp) (hd : s.desc.Wf → d.Wf) :
      Effect i s (setDescriptor d s)
  | appends (r : Record) (s : State) : Effect (recordInstr r) s (appendField r s)
  | responds (p : Bytes) (s : State) : Effect (.getInfo p) s (onGetInfo s)
  | suppresses (p : Bytes) (s : State) : Effect (.stopData p) s (onStopData s)
  | receivesData (p : Bytes) (s : State) : Effect (.sendData p) s (onSendData p s)
  /-- `SEND_INFO` and `OTHER`. -/
  | ignores {i : Instr} (c : Byte) {s : State} (hi : spaceOf i = .frame) : Effect i s (onIgnored c s)
  | takesByte (b : Byte) (s : State) : Effect (.rxByte b) s (rxByte b s)
  | findsNoByte (s : State) : Effect .rxEmpty s (rxEmpty s)
  | pollsNothing {s : State} (hq : s.rxFifo = []) : Effect .poll s (answer .silent (rxEmpty s))
  | pollsBytes {s : State} (hq : s.rxFifo ≠ []) : Effect .poll s (answer .silent (drain s.rxFifo s))

theorem effect_crcCalc {d : Bytes} {a b : Nat} {s t : State} (h : exec (.crcCalc d a b) s = .next t) :
    Effect (.crcCalc d a b) s t := by
  rw [exec_crcCalc, execCrcCalc] at h
  split at h <;> cases h <;> exact .answers rfl _

theorem effect_poll {s t : State} (h : exec .poll s = .next t) : Effect .poll s t := by
  change execPoll s = .next t at h
  unfold execPoll at h
  split at h
  · next hq =>
    cases h
    exact .pollsNothing hq
  · next b q hq =>
    cases h
    rw [← hq]
    exact .pollsBytes (by simp [hq])

/-- A string that passes the length test of R281 keeps the descriptor within its bound. -/
theorem effect_setDescriptorText {i : Instr} {v : Bytes} {d : Descriptor} {s : State} (hi : spaceOf i = .hostOp)
    (hd : v.length ≤ strMax → s.desc.Wf → d.Wf) : Effect i s (setDescriptorText v d s) := by
  unfold setDescriptorText
  split
  · exact .answers hi _
  · next hlen => exact .describes hi (hd (Nat.not_lt.mp hlen))

/-- Everything an instruction can do. -/
theorem exec_effect {i : Instr} {s t : State} (h : exec i s = .next t) : Effect i s t := by
  cases i
  case crcCalc => exact effect_crcCalc h
  case poll => exact effect_poll h
  all_goals cases h
  case getInfo p => exact .responds p s
  case sendData p => exact .receivesData p s
  case stopData p => exact .suppresses p s
  case sendInfo | other => exact .ignores _ rfl
  case recI8 k p => exact .appends ⟨.i8, k, p⟩ s
  case recU8 k p => exact .appends ⟨.u8, k, p⟩ s
  case recI16 k p => exact .appends ⟨.i16, k, p⟩ s
  case recU16 k p => exact .appends ⟨.u16, k, p⟩ s
  case recI32 k p => exact .appends ⟨.i32, k, p⟩ s
  case recU32 k p => exact .appends ⟨.u32, k, p⟩ s
  case recF32 k p => exact .appends ⟨.f32, k, p⟩ s
  case recF64 k p => exact .appends ⟨.f64, k, p⟩ s
  case recStr k p => exact .appends ⟨.str, k, p⟩ s
  case setI8 | setU8 | setStr => exact .sets rfl
  case setI16 | setU16 | setI32 | setU32 | setF32 | setF64 => exact .sets (by rw [setRecord, sliceBytes_eq]; rfl)
  case getI8 k => exact .gets .i8 k s
  case getU8 k => exact .gets .u8 k s
  case getI16 k => exact .gets .i16 k s
  case getU16 k => exact .gets .u16 k s
  case getI32 k => exact .gets .i32 k s
  case getU32 k => exact .gets .u32 k s
  case getF32 k => exact .gets .f32 k s
  case getF64 k => exact .gets .f64 k s
  case getStr k => exact .gets .str k s
  case clear => exact .clears s
  case decode b => exact .decodes b s
  case send c => exact .sends c s
  case errClear => exact .clearsErrors s
  case descSet0 | descSet1 | descSet2 | descSet3 | descSet4 | descSet5 => exact .describes rfl id
  case descSet6 => exact effect_setDescriptorText rfl fun hlen hwf => ⟨hlen, hwf.2⟩
  case descSet7 => exact effect_setDescriptorText rfl fun hlen hwf => ⟨hwf.1, hlen⟩
  case rxByte b => exact .takesByte b s
  case rxEmpty => exact .findsNoByte s
  all_goals exact .answers rfl _

theorem spaceOf_recordInstr (r : Record) : spaceOf (recordInstr r) = .record := by
  obtain ⟨t, k, p⟩ := r
  cases t <;> rfl

/-! ### Operations on the store -/

/-- Only the store and the output are written. -/
def WritesStoreOnly (s t : State) : Prop := ∃ y o, t = { s with x := y, out := o }

theorem writesStoreOnly_setField (r : Record) (s : State) : WritesStoreOnly s (setField r s) := by
  obtain ⟨y, -, h⟩ | ⟨e, -, h⟩ := setField_cases r s <;> exact ⟨_, _, h⟩

theorem writesStoreOnly_decodeInto (b : Bytes) (s : State) : WritesStoreOnly s (decodeInto b s) := by
  obtain ⟨y, -, -, -, -, h⟩ | ⟨e, -, -, h⟩ := decodeInto_cases b s <;> exact ⟨_, _, h⟩

theorem writesStoreOnly_appendField (r : Record) (s : State) : WritesStoreOnly s (appendField r s) := by
  obtain ⟨-, h⟩ | ⟨-, h⟩ := appendField_cases r s <;> exact ⟨_, _, h⟩

/-! ### What the host's operations leave alone -/

/-- The framer's registers and the pending bytes are as they were. -/
def FramerKept (s t : State) : Prop :=
  t.rxState = s.rxState ∧ t.rxLen = s.rxLen ∧ t.curCmd = s.curCmd ∧ t.rxBuf = s.rxBuf ∧ t.rxChk = s.rxChk ∧
    t.rxLast = s.rxLast ∧ t.lastCmd = s.lastCmd ∧ t.rxFifo = s.rxFifo

theorem framerKept_refl (s : State) : FramerKept s s := ⟨rfl, rfl, rfl, rfl, rfl, rfl, rfl, rfl⟩

theorem framerKept_of_writesStoreOnly {s t : State} (h : WritesStoreOnly s t) : FramerKept s t := by
  obtain ⟨y, o, rfl⟩ := h
  exact framerKept_refl s

theorem framerKept_transmit (c : Byte) (s : State) : FramerKept s (transmit c (readTime s)).2 := by
  simp [FramerKept]

/-- Settles O46: by the families of host operations. -/
theorem hostOperationsLeaveTheFramerAlone : Obligations.HostOperationsLeaveTheFramerAlone := by
  intro i s t hspace hpoll h
  change FramerKept s t
  cases exec_effect h
  case answers | clears | clearsErrors | describes => exact framerKept_refl s
  case sets r _ => exact framerKept_of_writesStoreOnly (writesStoreOnly_setField r s)
  case gets t k =>
    obtain ⟨f, o, hget⟩ := getField_frame t k s
    rw [hget]
    exact framerKept_refl s
  case decodes b => exact framerKept_of_writesStoreOnly (writesStoreOnly_decodeInto b s)
  case sends c => exact framerKept_transmit c s
  case appends r => exact absurd ((spaceOf_recordInstr r).symm.trans hspace) (by decide)
  case ignores hi => exact absurd (hi.symm.trans hspace) (by decide)
  case responds | suppresses | receivesData | takesByte | findsNoByte => cases hspace
  case pollsNothing | pollsBytes => exact absurd rfl hpoll

/-! ### Who writes the latch and `read_flag` -/

/-- The latch and `read_flag` are as they were. -/
def FlagsKept (s t : State) : Prop := t.dataAvailable = s.dataAvailable ∧ t.readFlag = s.readFlag

theorem flagsKept_of_writesStoreOnly {s t : State} (h : WritesStoreOnly s t) : FlagsKept s t := by
  obtain ⟨y, o, rfl⟩ := h
  exact ⟨rfl, rfl⟩

theorem flagsKept_onGetInfo (s : State) : FlagsKept s (onGetInfo s) := by
  obtain ⟨n, ds, f, fs, h, -⟩ := onGetInfo_cases s
  rw [h]
  exact ⟨rfl, rfl⟩

theorem flagsKept_onStopData (s : State) : FlagsKept s (onStopData s) := by
  obtain ⟨n, ds, -, h⟩ := onStopData_cases s
  rw [h]
  exact ⟨rfl, rfl⟩

/-- Settles O44: of the families that are left, `GET` writes `read_flag` and the empty poll the latch. -/
theorem latchAndReadFlagWriters : Obligations.LatchAndReadFlagWriters := by
  intro i s t h hsendData hrxByte hpoll
  have of_kept : FlagsKept s t →
      (i ≠ .rxEmpty → t.dataAvailable = s.dataAvailable) ∧ ((∀ u k, i ≠ getInstr u k) → t.readFlag = s.readFlag) :=
    fun hkept => ⟨fun _ => hkept.1, fun _ => hkept.2⟩
  cases exec_effect h
  case answers | clears | clearsErrors | describes | ignores => exact of_kept ⟨rfl, rfl⟩
  case sets r _ => exact of_kept (flagsKept_of_writesStoreOnly (writesStoreOnly_setField r s))
  case decodes b => exact of_kept (flagsKept_of_writesStoreOnly (writesStoreOnly_decodeInto b s))
  case sends c => exact of_kept (by simp [FlagsKept])
  case appends r => exact of_kept (flagsKept_of_writesStoreOnly (writesStoreOnly_appendField r s))
  case responds => exact of_kept (flagsKept_onGetInfo s)
  case suppresses => exact of_kept (flagsKept_onStopData s)
  case gets t k =>
    obtain ⟨f, o, hget⟩ := getField_frame t k s
    exact ⟨fun _ => by rw [hget], fun hne => absurd rfl (hne t k)⟩
  case findsNoByte => exact ⟨fun hne => absurd rfl hne, fun _ => rfl⟩
  case receivesData p => exact absurd rfl (hsendData p)
  case takesByte b => exact absurd rfl (hrxByte b)
  case pollsNothing | pollsBytes => exact absurd rfl hpoll

/-! ### Who writes `ERR`, the transport and `suppress` -/

/-- `ERR`, the frames written and `suppress` are as they were. -/
def Quiet (s t : State) : Prop := t.err = s.err ∧ t.txLog = s.txLog ∧ t.suppress = s.suppress

/-- The instructions that are not quiet, each with what it leaves. -/
inductive Writer : Instr → State → State → Prop where
  | clearsErrors (s : State) : Writer .errClear s { s with err := 0, out := .silent }
  | sends (c : Byte) (s : State) :
      Writer (.send c) s (answer (.status (transmit c (readTime s)).1) (transmit c (readTime s)).2)
  | responds (p : Bytes) (s : State) : Writer (.getInfo p) s (onGetInfo s)
  | suppresses (p : Bytes) (s : State) : Writer (.stopData p) s (onStopData s)
  | receivesData (p : Bytes) (s : State) : Writer (.sendData p) s (onSendData p s)
  | takesByte (b : Byte) (s : State) : Writer (.rxByte b) s (rxByte b s)
  | pollsBytes (s : State) : Writer .poll s (answer .silent (drain s.rxFifo s))

theorem quiet_of_writesStoreOnly {s t : State} (h : WritesStoreOnly s t) : Quiet s t := by
  obtain ⟨y, o, rfl⟩ := h
  exact ⟨rfl, rfl, rfl⟩

theorem quiet_getField (t : Tag) (k : Bytes) (s : State) : Quiet s (getField t k s) := by
  obtain ⟨f, o, h⟩ := getField_frame t k s
  rw [h]
  exact ⟨rfl, rfl, rfl⟩

/-- An instruction is quiet, or one of seven. -/
theorem quiet_or_writer {i : Instr} {s t : State} (h : exec i s = .next t) : Quiet s t ∨ Writer i s t := by
  cases exec_effect h
  case answers | clears | describes | ignores | findsNoByte | pollsNothing => exact .inl ⟨rfl, rfl, rfl⟩
  case sets r _ => exact .inl (quiet_of_writesStoreOnly (writesStoreOnly_setField r s))
  case gets t k => exact .inl (quiet_getField t k s)
  case decodes b => exact .inl (quiet_of_writesStoreOnly (writesStoreOnly_decodeInto b s))
  case appends r => exact .inl (quiet_of_writesStoreOnly (writesStoreOnly_appendField r s))
  case clearsErrors => exact .inr (.clearsErrors s)
  case sends c => exact .inr (.sends c s)
  case responds p => exact .inr (.responds p s)
  case suppresses p => exact .inr (.suppresses p s)
  case receivesData p => exact .inr (.receivesData p s)
  case takesByte b => exact .inr (.takesByte b s)
  case pollsBytes => exact .inr (.pollsBytes s)

/-- A step is quiet, resets the block, or runs one of the seven. -/
theorem step_quiet_or_writer {s t : State} (h : step s = .next t) :
    Quiet s t ∨ (∃ ts, s.turns = .reset :: ts ∧ t = resetBlock { s with turns := ts }) ∨
      (∃ ts i rest, s.turns = .host :: ts ∧ decode s.cfg .hostOp s.hostPort = .ok (i, rest) ∧
        exec i { s with turns := ts, hostPort := rest } = .next t ∧ Writer i { s with turns := ts, hostPort := rest } t) ∨
      ∃ ts b q, s.turns = .receive :: ts ∧ t = rxByte b { s with turns := ts, rxFifo := q } := by
  obtain ⟨-, ⟨-, rfl⟩ | ⟨ts, hts, ⟨-, rfl⟩ | ⟨i, rest, -, hd, hi⟩⟩ | ⟨ts, hts, ⟨-, rfl⟩ | ⟨b, q, -, rfl⟩⟩ |
    ⟨bytes, ts, -, rfl⟩ | ⟨ts, hts, rfl⟩⟩ := step_cases h
  · exact .inl ⟨rfl, rfl, rfl⟩
  · exact .inl ⟨rfl, rfl, rfl⟩
  · obtain hquiet | hwriter := quiet_or_writer hi
    · exact .inl hquiet
    · exact .inr (.inr (.inl ⟨ts, i, rest, hts, hd, hi, hwriter⟩))
  · exact .inl ⟨rfl, rfl, rfl⟩
  · exact .inr (.inr (.inr ⟨ts, b, q, hts, rfl⟩))
  · exact .inl ⟨rfl, rfl, rfl⟩
  · exact .inr (.inl ⟨ts, hts, rfl⟩)

end Sys2Proof.Machine
end

section
/-! What every step keeps: `ERR` bits once set, frames written to the transport, and a sound state (10_state.md R23, R28, R29,
R33, 20_memory.md R66). -/

namespace Sys2Proof.Machine

/-! ### Polls -/

/-- What every receive step keeps, whatever is pending behind its byte, a poll keeps. -/
theorem drain_keeps {P : State → Prop} (hstep : ∀ b q s, P s → P (rxByte b { s with rxFifo := q })) (q : Bytes) {s : State}
    (hs : P s) : P (drain q s) := by
  induction q generalizing s with
  | nil => exact hs
  | cons b q ih => exact ih (hstep b q s hs)

/-! ### ERR -/

/-- Every `ERR` bit that was set is still set. -/
def ErrKept (s t : State) : Prop := s.err &&& t.err = s.err

theorem errKept_of_eq {s t : State} (h : t.err = s.err) : ErrKept s t := by
  rw [ErrKept, h, BitVec.and_self]

theorem errKept_of_or {s t : State} {e : BitVec 4} (h : t.err = s.err ||| e) : ErrKept s t := by
  rw [ErrKept, h]
  apply BitVec.eq_of_getLsbD_eq
  intro k _
  simp only [BitVec.getLsbD_and, BitVec.getLsbD_or]
  cases s.err.getLsbD k <;> rfl

theorem ErrKept.trans {s t u : State} (hst : ErrKept s t) (htu : ErrKept t u) : ErrKept s u := by
  unfold ErrKept at *
  rw [← hst, BitVec.and_assoc, htu]

theorem errKept_raiseRx (e : Status) (s : State) : ErrKept s (raiseRx e s) := by
  cases e
  case checksumMismatch | terminatorMismatch | lengthError | decodeOutOfRange | unknownTag | storeFull => exact errKept_of_or rfl
  all_goals exact errKept_of_eq rfl

theorem errKept_onGetInfo (s : State) : ErrKept s (onGetInfo s) := by
  obtain ⟨n, ds, f, fs, h, -⟩ := onGetInfo_cases s
  exact errKept_of_eq (by rw [h])

theorem errKept_onStopData (s : State) : ErrKept s (onStopData s) := by
  obtain ⟨n, ds, -, h⟩ := onStopData_cases s
  exact errKept_of_eq (by rw [h])

theorem errKept_onSendData (p : Bytes) (s : State) : ErrKept s (onSendData p s) := by
  obtain ⟨-, h⟩ | ⟨y, -, -, h⟩ | ⟨e, -, -, h⟩ := onSendData_cases p s <;> rw [h]
  · exact errKept_of_eq rfl
  · exact errKept_of_eq rfl
  · exact errKept_raiseRx e (acceptFrame cmdSendData s)

theorem errKept_dispatch (c : Byte) (p : Bytes) (s : State) : ErrKept s (dispatch c p s) := by
  obtain ⟨-, h⟩ | ⟨-, h⟩ | ⟨-, h⟩ | ⟨-, h⟩ := dispatch_cases c p s <;> rw [h]
  · exact errKept_onGetInfo s
  · exact errKept_onStopData s
  · exact errKept_onSendData p s
  · exact errKept_of_eq rfl

theorem errKept_rxByte (b : Byte) (s : State) : ErrKept s (rxByte b s) := by
  obtain ⟨-, r, l, c, p, k, -, h⟩ | ⟨-, h⟩ | ⟨-, l, h⟩ | ⟨-, h | h | h⟩ := rxByte_cases b s <;> rw [h]
  · exact errKept_of_eq rfl
  · exact errKept_raiseRx _ s
  · exact errKept_raiseRx _ { s with rxLen := l }
  · exact errKept_raiseRx _ s
  · exact errKept_raiseRx _ s
  · exact errKept_dispatch _ _ s

theorem errKept_drain (q : Bytes) (s : State) : ErrKept s (drain q s) :=
  drain_keeps (P := ErrKept s) (fun b q u hu => hu.trans (errKept_rxByte b { u with rxFifo := q })) q (errKept_of_eq rfl)

/-- Of all instructions only `ERR_CLEAR` clears an `ERR` bit. -/
theorem errKept_of_writer {i : Instr} {s t : State} (h : Writer i s t) (hne : i ≠ .errClear) : ErrKept s t := by
  cases h
  case clearsErrors => exact absurd rfl hne
  case sends c => exact errKept_of_eq (by simp)
  case responds => exact errKept_onGetInfo s
  case suppresses => exact errKept_onStopData s
  case receivesData p => exact errKept_onSendData p s
  case takesByte b => exact errKept_rxByte b s
  case pollsBytes => exact errKept_drain s.rxFifo s

/-- Settles O45: a step is quiet, a reset, or runs an instruction that writes. -/
theorem errorBitsAreSticky : Obligations.ErrorBitsAreSticky := by
  intro s t h hcleared
  obtain ⟨herr, -, -⟩ | ⟨ts, hts, -⟩ | ⟨ts, i, rest, hts, hd, -, hwriter⟩ | ⟨ts, b, q, -, rfl⟩ := step_quiet_or_writer h
  · exact absurd (errKept_of_eq herr) hcleared
  · exact .inl ⟨ts, hts⟩
  · by_cases hne : i = .errClear
    · subst hne
      exact .inr ⟨ts, rest, hts, hd⟩
    · exact absurd (errKept_of_writer hwriter hne) hcleared
  · exact absurd (errKept_rxByte b { s with turns := ts, rxFifo := q }) hcleared

/-! ### Frames written -/

/-- What was written to the transport stays, and what is added is complete well-formed frames (20_memory.md R66). -/
def WritesFrames (s t : State) : Prop :=
  ∃ fs : List Bytes, t.txLog = s.txLog ++ fs ∧
    ∀ f ∈ fs, ∃ (cmd : Byte) (payload : Bytes), payload.length ≤ 65531 ∧ f = specFrame cmd payload

theorem writesFrames_of_eq {s t : State} (h : t.txLog = s.txLog) : WritesFrames s t :=
  ⟨[], by rw [h, List.append_nil], nofun⟩

theorem writesFrames_of_append {s t : State} {cmd : Byte} {p : Bytes} (hp : p.length ≤ payloadMax)
    (h : t.txLog = s.txLog ++ [encodeFrame cmd p]) : WritesFrames s t := by
  refine ⟨_, h, fun f hf => ⟨cmd, p, hp, ?_⟩⟩
  rw [List.mem_singleton.mp hf, specFrame_eq_encodeFrame]

theorem WritesFrames.trans {s t u : State} (hst : WritesFrames s t) (htu : WritesFrames t u) : WritesFrames s u := by
  obtain ⟨fs, hfs, hwf⟩ := hst
  obtain ⟨gs, hgs, hwg⟩ := htu
  refine ⟨fs ++ gs, by rw [hgs, hfs, List.append_assoc], fun f hf => ?_⟩
  obtain hf | hf := List.mem_append.mp hf
  · exact hwf f hf
  · exact hwg f hf

theorem writesFrames_send (c : Byte) (s : State) : WritesFrames s (transmit c (readTime s)).2 := by
  obtain ⟨-, h⟩ | ⟨-, -, h⟩ | ⟨-, hlen, h⟩ := transmit_cases c (readTime s) <;> rw [h]
  · exact writesFrames_of_eq (readTime_txLog s)
  · exact writesFrames_of_eq (readTime_txLog s)
  · exact writesFrames_of_append hlen (congrArg (· ++ _) (readTime_txLog s))

theorem writesFrames_onGetInfo (s : State) : WritesFrames s (onGetInfo s) := by
  obtain ⟨n, ds, f, fs, h, rfl | ⟨p, hp, rfl⟩⟩ := onGetInfo_cases s <;> rw [h]
  · exact writesFrames_of_eq (List.append_nil _)
  · exact writesFrames_of_append hp rfl

theorem writesFrames_onStopData (s : State) : WritesFrames s (onStopData s) := by
  obtain ⟨n, ds, -, h⟩ := onStopData_cases s
  exact writesFrames_of_eq (by rw [h])

theorem writesFrames_raiseRx (e : Status) (s : State) : WritesFrames s (raiseRx e s) :=
  writesFrames_of_eq (raiseError_txLog s e)

theorem writesFrames_onSendData (p : Bytes) (s : State) : WritesFrames s (onSendData p s) := by
  obtain ⟨-, h⟩ | ⟨y, -, -, h⟩ | ⟨e, -, -, h⟩ := onSendData_cases p s <;> rw [h]
  · exact writesFrames_of_eq rfl
  · exact writesFrames_of_eq rfl
  · exact writesFrames_raiseRx e (acceptFrame cmdSendData s)

theorem writesFrames_dispatch (c : Byte) (p : Bytes) (s : State) : WritesFrames s (dispatch c p s) := by
  obtain ⟨-, h⟩ | ⟨-, h⟩ | ⟨-, h⟩ | ⟨-, h⟩ := dispatch_cases c p s <;> rw [h]
  · exact writesFrames_onGetInfo s
  · exact writesFrames_onStopData s
  · exact writesFrames_onSendData p s
  · exact writesFrames_of_eq rfl

theorem writesFrames_rxByte (b : Byte) (s : State) : WritesFrames s (rxByte b s) := by
  obtain ⟨-, r, l, c, p, k, -, h⟩ | ⟨-, h⟩ | ⟨-, l, h⟩ | ⟨-, h | h | h⟩ := rxByte_cases b s <;> rw [h]
  · exact writesFrames_of_eq rfl
  · exact writesFrames_raiseRx _ s
  · exact writesFrames_raiseRx _ { s with rxLen := l }
  · exact writesFrames_raiseRx _ s
  · exact writesFrames_raiseRx _ s
  · exact writesFrames_dispatch _ _ s

theorem writesFrames_drain (q : Bytes) (s : State) : WritesFrames s (drain q s) :=
  drain_keeps (P := WritesFrames s) (fun b q u hu => hu.trans (writesFrames_rxByte b { u with rxFifo := q })) q
    (writesFrames_of_eq rfl)

theorem writesFrames_of_writer {i : Instr} {s t : State} (h : Writer i s t) : WritesFrames s t := by
  cases h
  case clearsErrors => exact writesFrames_of_eq rfl
  case sends c => exact writesFrames_send c s
  case responds => exact writesFrames_onGetInfo s
  case suppresses => exact writesFrames_onStopData s
  case receivesData p => exact writesFrames_onSendData p s
  case takesByte b => exact writesFrames_rxByte b s
  case pollsBytes => exact writesFrames_drain s.rxFifo s

/-- Settles O56: a step is quiet, a reset, or runs an instruction that writes frames only. -/
theorem everyTransmittedFrameIsWellFormed : Obligations.EveryTransmittedFrameIsWellFormed := by
  intro s t h
  change WritesFrames s t
  obtain ⟨-, hlog, -⟩ | ⟨ts, -, rfl⟩ | ⟨ts, i, rest, -, -, -, hwriter⟩ | ⟨ts, b, q, -, rfl⟩ := step_quiet_or_writer h
  · exact writesFrames_of_eq hlog
  · exact writesFrames_of_eq rfl
  · exact writesFrames_of_writer (s := { s with turns := ts, hostPort := rest }) hwriter
  · exact writesFrames_rxByte b { s with turns := ts, rxFifo := q }

/-! ### A sound state -/

theorem dispatch_rxBuf (c : Byte) (p : Bytes) (s : State) : (dispatch c p s).rxBuf = s.rxBuf := by
  obtain ⟨-, h⟩ | ⟨-, h⟩ | ⟨-, h⟩ | ⟨-, h⟩ := dispatch_cases c p s <;> rw [h]
  · obtain ⟨n, ds, f, fs, hs, -⟩ := onGetInfo_cases s
    rw [hs]
  · obtain ⟨n, ds, -, hs⟩ := onStopData_cases s
    rw [hs]
  · obtain ⟨-, hs⟩ | ⟨y, -, -, hs⟩ | ⟨e, -, -, hs⟩ := onSendData_cases p s <;> rw [hs]
    · rfl
    · rfl
    · exact raiseError_rxBuf _ e
  · rfl

/-- A byte is appended to the receive buffer only while the payload is not complete (43_rx_framer.md R227). -/
theorem rxByte_rxBuf_length_le {s : State} (hs : framerSound s = true) (hlen : s.rxBuf.length ≤ s.cfg.rxMaxPayload) (b : Byte) :
    (rxByte b s).rxBuf.length ≤ s.cfg.rxMaxPayload := by
  obtain ⟨-, r, l, c, p, k, hp, h⟩ | ⟨-, h⟩ | ⟨-, l, h⟩ | ⟨-, h | h | h⟩ := rxByte_cases b s <;> rw [h]
  · obtain rfl | rfl | ⟨hst, rfl⟩ := hp
    · exact hlen
    · exact Nat.zero_le _
    · rw [framerSound, hst] at hs
      obtain ⟨hchecked, hlt⟩ := Bool.and_eq_true_iff.mp hs
      have hlt := of_decide_eq_true hlt
      obtain ⟨-, hcap⟩ := lengthChecked_iff.mp hchecked
      rw [List.length_append, List.length_singleton]
      exact (Nat.succ_le_of_lt hlt).trans hcap
  · exact hlen
  · exact hlen
  · exact hlen
  · exact hlen
  · exact (dispatch_rxBuf _ _ s).symm ▸ hlen

/-- INV-WIDTH and the store's bound. -/
def StoreSound (cfg : Config) (x : List Record) : Prop := StoreFits x ∧ StoreInBounds cfg x

theorem storeSound_nil (cfg : Config) : StoreSound cfg [] := ⟨nofun, fun n _ => Nat.zero_le n⟩

theorem storeSound_descriptorStore {cfg : Config} {d : Descriptor} (hc : cfg.Wf) (hd : d.Wf) :
    StoreSound cfg (descriptorStore cfg d) := by
  have hfit := descriptorRecords_fit hc hd
  rw [descriptorStore_eq hc hd]
  obtain ⟨-, -, -, hmax, -⟩ := hc
  exact ⟨hfit, hmax⟩

theorem storeSound_decodePayload {cfg : Config} {b : Bytes} {y : List Record} (h : decodePayload cfg b = .ok y) :
    StoreSound cfg y := by
  obtain ⟨ys, rfl, hfit, -, hbound⟩ := decodeLoop_ok h
  exact ⟨hfit, hbound (storeSound_nil cfg).2⟩

theorem storeSound_onSendData {s : State} (hs : StoreSound s.cfg s.x) (p : Bytes) : StoreSound s.cfg (onSendData p s).x := by
  obtain ⟨-, h⟩ | ⟨y, -, hy, h⟩ | ⟨e, -, he, h⟩ := onSendData_cases p s <;> rw [h]
  · exact hs
  · exact storeSound_decodePayload hy
  · rw [raiseRx_of_decode (decodeLoop_error he)]
    exact storeSound_nil s.cfg

theorem storeSound_dispatch {s : State} (hs : SoundState s) (c : Byte) (p : Bytes) : StoreSound s.cfg (dispatch c p s).x := by
  obtain ⟨hc, hfit, hbound, hd, -, -⟩ := hs
  obtain ⟨-, h⟩ | ⟨-, h⟩ | ⟨-, h⟩ | ⟨-, h⟩ := dispatch_cases c p s <;> rw [h]
  · obtain ⟨n, ds, f, fs, hresponse, -⟩ := onGetInfo_cases s
    rw [hresponse]
    exact storeSound_descriptorStore hc hd
  · obtain ⟨n, ds, -, hstop⟩ := onStopData_cases s
    rw [hstop]
    exact ⟨hfit, hbound⟩
  · exact storeSound_onSendData ⟨hfit, hbound⟩ p
  · exact ⟨hfit, hbound⟩

theorem SoundState.storeSound {s : State} (hs : SoundState s) : StoreSound s.cfg s.x := by
  obtain ⟨-, hfit, hbound, -⟩ := hs
  exact ⟨hfit, hbound⟩

theorem SoundState.descWf {s : State} (hs : SoundState s) : s.desc.Wf := by
  obtain ⟨-, -, -, hdesc, -⟩ := hs
  exact hdesc

theorem storeSound_rxByte {s : State} (hs : SoundState s) (b : Byte) : StoreSound s.cfg (rxByte b s).x := by
  have hstore := hs.storeSound
  obtain ⟨-, r, l, c, p, k, -, h⟩ | ⟨-, h⟩ | ⟨-, l, h⟩ | ⟨-, h | h | h⟩ := rxByte_cases b s <;> rw [h]
  case inr.inr.inr.inr.inr => exact storeSound_dispatch hs _ _
  all_goals exact hstore

/-- Every receive step keeps the state sound. -/
theorem soundState_rxByte {s : State} (hs : SoundState s) (b : Byte) : SoundState (rxByte b s) := by
  obtain ⟨hfit, hbound⟩ := storeSound_rxByte hs b
  obtain ⟨hc, -, -, hd, hbuf, hframer⟩ := hs
  have hbuf' := rxByte_rxBuf_length_le hframer hbuf b
  refine ⟨?_, hfit, ?_, ?_, ?_, framerSound_rxByte hframer b⟩
  · rwa [rxByte_cfg]
  · rwa [rxByte_cfg]
  · rwa [rxByte_desc]
  · rwa [rxByte_cfg]

theorem soundState_drain {s : State} (hs : SoundState s) (q : Bytes) : SoundState (drain q s) :=
  drain_keeps (fun b q u hu => soundState_rxByte (s := { u with rxFifo := q }) hu b) q hs

/-- A new store or descriptor within bounds, the framer left alone: what a host operation does. -/
theorem SoundState.replace {s : State} (hs : SoundState s) {t : State} (hcfg : t.cfg = s.cfg) (hx : StoreSound s.cfg t.x)
    (hd : t.desc.Wf) (hframer : FramerKept s t) : SoundState t := by
  obtain ⟨hc, -, -, -, hbuf, hsound⟩ := hs
  obtain ⟨hst, hlen, -, hrxBuf, -, -, -, -⟩ := hframer
  obtain ⟨hfit, hbound⟩ := hx
  have hpayload : payloadLen t = payloadLen s := by rw [payloadLen, payloadLen, hlen]
  have hchecked : lengthChecked t = lengthChecked s := by rw [lengthChecked, lengthChecked, hlen, hpayload, hcfg]
  refine ⟨hcfg ▸ hc, hfit, hcfg ▸ hbound, hd, by rwa [hrxBuf, hcfg], ?_⟩
  rw [framerSound, hst, hchecked, hrxBuf, hpayload]
  exact hsound

theorem storeSound_setField {o : ByteOrder} {i : Instr} {r : Record} (hi : setRecord o i = some r) {s : State}
    (hs : StoreSound s.cfg s.x) : StoreSound (setField r s).cfg (setField r s).x := by
  obtain ⟨hfit, -, hbound⟩ := setField_keeps hi s
  exact ⟨hfit hs.1, hbound hs.2⟩

/-- Every host operation keeps the state sound. -/
theorem soundState_of_exec {i : Instr} {s t : State} (hspace : spaceOf i = .hostOp) (hs : SoundState s)
    (h : exec i s = .next t) : SoundState t := by
  have hstore := hs.storeSound
  have hdesc := hs.descWf
  cases exec_effect h
  case answers | clearsErrors => exact hs
  case sets r hi =>
    have hsound := storeSound_setField hi hstore
    obtain ⟨y, o, hset⟩ := writesStoreOnly_setField r s
    rw [hset] at hsound ⊢
    exact hs.replace rfl hsound hdesc (framerKept_refl s)
  case gets t k =>
    obtain ⟨f, o, hget⟩ := getField_frame t k s
    rw [hget]
    exact hs
  case clears => exact hs.replace rfl (storeSound_nil s.cfg) hdesc (framerKept_refl s)
  case decodes b =>
    obtain ⟨y, hy, -, -, -, hdec⟩ | ⟨e, -, -, hdec⟩ := decodeInto_cases b s <;> rw [hdec]
    · exact hs.replace rfl (storeSound_decodePayload hy) hdesc (framerKept_refl s)
    · exact hs.replace rfl (storeSound_nil s.cfg) hdesc (framerKept_refl s)
  case sends c =>
    exact hs.replace (by simp) (by simpa using hstore) (by simpa using hdesc) (framerKept_transmit c s)
  case describes d _ hd => exact hs.replace rfl hstore (hd hdesc) (framerKept_refl s)
  case pollsNothing => exact hs
  case pollsBytes => exact soundState_drain hs s.rxFifo
  case appends r => exact absurd ((spaceOf_recordInstr r).symm.trans hspace) (by decide)
  case ignores hi => exact absurd (hi.symm.trans hspace) (by decide)
  case responds | suppresses | receivesData | takesByte | findsNoByte => cases hspace

/-- Settles O54: the host's turn runs a host operation, the transport's a receive step, and a reset makes the initial state. -/
theorem stepKeepsSoundState : Obligations.StepKeepsSoundState := by
  intro s t hs h
  obtain ⟨-, ⟨-, rfl⟩ | ⟨ts, -, ⟨-, rfl⟩ | ⟨i, rest, -, hd, hi⟩⟩ | ⟨ts, -, ⟨-, rfl⟩ | ⟨b, q, -, rfl⟩⟩ | ⟨bytes, ts, -, rfl⟩ |
    ⟨ts, -, rfl⟩⟩ := step_cases h
  · exact hs
  · exact hs
  · obtain ⟨-, hspace, -⟩ := decode_spells hd
    exact soundState_of_exec (s := { s with turns := ts, hostPort := rest }) hspace hs hi
  · exact hs
  · exact soundState_rxByte (s := { s with turns := ts, rxFifo := q }) hs b
  · exact hs
  · obtain ⟨hc, -, -, -, -, -⟩ := hs
    obtain ⟨hfit, hbound⟩ := storeSound_nil s.cfg
    obtain ⟨-, -, -, -, hreset⟩ := id hc
    exact ⟨hc, hfit, hbound, hreset, Nat.zero_le _, rfl⟩

end Sys2Proof.Machine
end

section
/-! Polls, the latch and the suppression window over several steps (45_tx_and_host.md R273, R276, R278, 44_commands.md R252,
43_rx_framer.md R238). -/

namespace Sys2Proof.Machine

/-! ### A poll is the receive steps of its bytes -/

/-- A byte's receive step does the same whatever is pending behind it and whatever turns are planned. -/
theorem rxByte_with_pending (b : Byte) (s : State) (q : Bytes) (ts : List Turn) :
    rxByte b { s with rxFifo := q, turns := ts } = { rxByte b s with rxFifo := q, turns := ts } :=
  have hout : ∀ u : State, outside q ts u.out u = { u with rxFifo := q, turns := ts } := fun _ => rfl
  (congrArg (rxByte b) (hout s)).symm.trans ((rxByte_outside q ts s.out b s).trans (hout _))

theorem afterBytes_turns (bytes : Bytes) (s : State) : (afterBytes bytes s).turns = s.turns := by
  induction bytes generalizing s with
  | nil => rfl
  | cons b bytes ih => rw [afterBytes_cons, ih, rxByte_turns]

/-- Draining pops each byte before its step; in the end all are popped. -/
theorem drain_eq_afterBytes (q : Bytes) (s : State) (ts : List Turn) :
    drain q { s with rxFifo := q, turns := ts } = { afterBytes q s with rxFifo := [], turns := ts } := by
  induction q generalizing s with
  | nil => rfl
  | cons b q ih =>
    have hpop := rxByte_with_pending b s q ts
    exact (congrArg (drain q) hpop).trans (ih (rxByte b s))

theorem drain_rxFifo (s : State) : drain s.rxFifo s = { afterBytes s.rxFifo s with rxFifo := [] } := by
  have h := drain_eq_afterBytes s.rxFifo s s.turns
  rw [h, ← afterBytes_turns s.rxFifo s]

/-! ### Turns of the transport (R276) -/

theorem run_succ_of_next {s t : State} (h : step s = .next t) (n : Nat) :
    Sys2Proof.core.run (n + 1) s = Sys2Proof.core.run n t := by
  have hcore : Sys2Proof.core.step s = .next t := h
  simp only [Host.Core.run, hcore]

/-- As many turns of the transport as bytes are pending consume them all. -/
theorem run_receive (q : Bytes) {s : State} (hw : s.cfg.Wf) (ts : List Turn) :
    Sys2Proof.core.run q.length { s with rxFifo := q, turns := List.replicate q.length .receive ++ ts } =
      .next { afterBytes q s with rxFifo := [], turns := ts } := by
  induction q generalizing s with
  | nil => rfl
  | cons b q ih =>
    have hstep : step { s with rxFifo := b :: q, turns := .receive :: (List.replicate q.length .receive ++ ts) } =
        .next { rxByte b s with rxFifo := q, turns := List.replicate q.length .receive ++ ts } := by
      rw [← rxByte_with_pending]
      exact step_receive_cons
        (s := { s with rxFifo := b :: q, turns := .receive :: (List.replicate q.length .receive ++ ts) }) hw rfl rfl
    exact (run_succ_of_next hstep q.length).trans (ih (s := rxByte b s) (by rwa [rxByte_cfg]))

theorem exec_poll_of_nil {s : State} (hq : s.rxFifo = []) : exec .poll s = .next (answer .silent (rxEmpty s)) := by
  change execPoll s = _
  rw [execPoll, hq]

theorem exec_poll_of_ne_nil {s : State} (hq : s.rxFifo ≠ []) :
    exec .poll s = .next (answer .silent { afterBytes s.rxFifo s with rxFifo := [] }) := by
  obtain ⟨b, q, h⟩ := List.exists_cons_of_ne_nil hq
  rw [← drain_rxFifo]
  change execPoll s = _
  rw [execPoll, h]

/-- Settles O42: the transport's turns and the poll run the same receive steps. -/
theorem pollConsumesEveryPendingByte : Obligations.PollConsumesEveryPendingByte := by
  intro s
  refine ⟨fun hq => exec_poll_of_nil hq, fun hw hq => ?_⟩
  refine ⟨{ afterBytes s.rxFifo s with rxFifo := [], turns := s.turns }, run_receive s.rxFifo hw s.turns, rfl, rfl, ?_⟩
  rw [exec_poll_of_ne_nil hq, ← afterBytes_turns s.rxFifo s]
  rfl

/-! ### The latch (R278, R238) -/

theorem runAll_available (s : State) : runAll [.available] s = .next { s with out := .bit s.dataAvailable } := rfl

/-- An unread latch outlasts any number of empty polls. -/
theorem latch_after_rxEmpty (n : Nat) {s : State} (hlatch : s.dataAvailable = true) (hunread : s.readFlag = false) :
    ∃ u, runAll (List.replicate n .rxEmpty ++ [.available]) s = .next u ∧ u.out = .bit true := by
  induction n generalizing s with
  | zero => exact ⟨_, runAll_available s, congrArg Output.bit hlatch⟩
  | succ n ih =>
    have hempty : exec .rxEmpty s = .next { s with out := .raised .ok } := (rxEmptyClearsTheReadLatch s).2 hunread
    rw [List.replicate_succ, List.cons_append, runAll_cons_of_next hempty]
    exact ih hlatch hunread

theorem exec_getInstr_present (t : Tag) {k : Bytes} {s : State} (h : ∃ r ∈ s.x, r.key = k) :
    ∃ o, exec (getInstr t k) s = .next { s with readFlag := true, out := o } := by
  obtain ⟨r, hr, hk⟩ := h
  obtain habsent | ⟨pre, q, post, hx, hpre, hq⟩ := key_cases s.x k
  · exact absurd hk (habsent r hr)
  · exact ⟨_, by rw [exec_getInstr, getField_present hx hpre hq]⟩

/-- Settles O43: a read leaves the latch and sets `read_flag`, on which the next empty poll clears the latch. -/
theorem latchClearsOnlyWhenReadAndIdle : Obligations.LatchClearsOnlyWhenReadAndIdle := by
  intro s hlatch hunread
  refine ⟨fun n => latch_after_rxEmpty n hlatch hunread, fun t k hk => ?_⟩
  obtain ⟨o, hget⟩ := exec_getInstr_present t hk
  rw [runAll_cons_of_next hget, runAll_cons_of_next hget]
  exact ⟨⟨_, runAll_available _, congrArg Output.bit hlatch⟩, ⟨_, rfl, rfl⟩⟩

/-! ### STOP_DATA starts a window (44_commands.md R252) -/

theorem exec_stopData (p : Bytes) (s : State) :
    exec (.stopData p) s =
      .next { readTime s with
        suppress := true, tStop := (readTime s).now,
        rxLast := .packetComplete, lastCmd := cmdStopData, rxState := .idle, out := .raised .ok } := by
  obtain ⟨n, ds, hread, hstop⟩ := onStopData_cases s
  change Host.Outcome.next (onStopData s) = _
  rw [hstop, hread]

/-- The state that a `SEND` sees that reads the time `d` time-units after the `STOP_DATA` that read it at `stop`. -/
def sendAfterStop (stop d : Time) (ds : List Time) (s : State) : State :=
  { s with
    now := stop + d, timeAdvance := ds, suppress := true, tStop := stop, rxLast := .packetComplete,
    lastCmd := cmdStopData, rxState := .idle, out := .raised .ok }

theorem elapsed_sendAfterStop (stop d : Time) (ds : List Time) (s : State) : elapsed (sendAfterStop stop d ds s) = d.toNat :=
  congrArg BitVec.toNat (add_sub_cancel_left stop d)

theorem windowActive_sendAfterStop (stop d : Time) (ds : List Time) (s : State) :
    windowActive (sendAfterStop stop d ds s) = decide (d.toNat < suppressWindow) := by
  rw [windowActive, elapsed_sendAfterStop]
  rfl

theorem runAll_stopData_send {s : State} {a d : Time} {ds : List Time} (h : s.timeAdvance = a :: d :: ds) (p : Bytes)
    (cmd : Byte) {e : Status} {u : State} (hu : transmit cmd (sendAfterStop (s.now + a) d ds s) = (e, u)) :
    runAll [.stopData p, .send cmd] s = .next { u with out := .status e } := by
  have hstop := exec_stopData p s
  rw [readTime_of_cons s h] at hstop
  rw [runAll_cons_of_next hstop]
  exact runAll_cons_of_next (exec_send_of_transmit hu) []

/-- Settles O40: `STOP_DATA` reads the first time, `SEND` the second, and their difference is the draw between them. -/
theorem suppressionLastsTheWindow : Obligations.SuppressionLastsTheWindow := by
  intro p cmd a d ds s htime
  have hwindow := windowActive_sendAfterStop (s.now + a) d ds s
  rw [flatMap_specRecord, specFrame_eq_encodeFrame]
  by_cases hrunning : d.toNat < suppressWindow
  · rw [decide_eq_true hrunning] at hwindow
    refine ⟨_, runAll_stopData_send htime p cmd (transmit_of_windowActive hwindow cmd), rfl, rfl,
      fun _ => ⟨rfl, rfl, rfl⟩, fun hover => absurd hrunning (Nat.not_lt.mpr hover)⟩
  · rw [decide_eq_false hrunning] at hwindow
    by_cases hlen : (encodeStore s.cfg s.x).length ≤ payloadMax
    · exact ⟨_, runAll_stopData_send htime p cmd (transmit_of_length_le hwindow hlen cmd), rfl, rfl,
        fun h => absurd h hrunning, fun _ => ⟨rfl, fun _ => ⟨rfl, rfl⟩⟩⟩
    · exact ⟨_, runAll_stopData_send htime p cmd (transmit_of_lt_length hwindow (Nat.not_le.mp hlen) cmd), rfl, rfl,
        fun h => absurd h hrunning, fun _ => ⟨rfl, fun h => absurd h hlen⟩⟩

/-! ### Only a SEND lifts suppression (45_tx_and_host.md R270, R273) -/

/-- A transmit path that lifts the suppression reads a time past the window. -/
theorem elapsed_of_transmit_lifts {c : Byte} {s : State} (hs : s.suppress = true) (ht : (transmit c s).2.suppress = false) :
    suppressWindow ≤ (s.now - s.tStop).toNat := by
  by_cases hrunning : windowActive s = true
  · rw [transmit_of_windowActive hrunning, hs] at ht
    cases ht
  · obtain hoff | hover := windowActive_eq_false.mp (Bool.eq_false_iff.mpr hrunning)
    · exact absurd (hs.symm.trans hoff) (by decide)
    · exact hover

/-- The suppression was lifted by a read of the time past the window (45_tx_and_host.md R273). -/
def LiftedAfterWindow (s t : State) : Prop :=
  t.tStop = s.tStop ∧ t.now = (readTime s).now ∧ 4000 ≤ (t.now - s.tStop).toNat

theorem liftedAfterWindow_send {c : Byte} {s : State} (hs : s.suppress = true)
    (ht : (transmit c (readTime s)).2.suppress = false) : LiftedAfterWindow s (transmit c (readTime s)).2 := by
  have helapsed := elapsed_of_transmit_lifts ((readTime_suppress s).trans hs) ht
  rw [readTime_tStop] at helapsed
  refine ⟨by simp, by simp, ?_⟩
  rw [transmit_now]
  exact helapsed

theorem liftedAfterWindow_onGetInfo {s : State} (hs : s.suppress = true) (ht : (onGetInfo s).suppress = false) :
    LiftedAfterWindow s (onGetInfo s) := by
  have hread := readTime_acceptFrame_store cmdGetInfo (descriptorStore s.cfg s.desc) s
  have hsent : onGetInfo s = answer (.raised .ok)
      (transmit cmdSendInfo { acceptFrame cmdGetInfo (readTime s) with x := descriptorStore s.cfg s.desc }).2 := by
    rw [← hread]
    rfl
  generalize hu : ({ acceptFrame cmdGetInfo (readTime s) with x := descriptorStore s.cfg s.desc } : State) = u at hsent
  have hstop : u.tStop = s.tStop := hu ▸ readTime_tStop s
  have hnow : u.now = (readTime s).now := by rw [← hu]; rfl
  have hsuppress : u.suppress = true := hu ▸ (readTime_suppress s).trans hs
  rw [hsent] at ht ⊢
  have helapsed := elapsed_of_transmit_lifts hsuppress ht
  refine ⟨(transmit_tStop _ u).trans hstop, (transmit_now _ u).trans hnow, ?_⟩
  rw [answer_now, transmit_now, ← hstop]
  exact helapsed

theorem onSendData_suppress (p : Bytes) (s : State) : (onSendData p s).suppress = s.suppress := by
  obtain ⟨-, h⟩ | ⟨y, -, -, h⟩ | ⟨e, -, -, h⟩ := onSendData_cases p s <;> rw [h]
  · rfl
  · rfl
  · exact raiseError_suppress _ e

theorem onStopData_suppress (s : State) : (onStopData s).suppress = true := by
  obtain ⟨n, ds, -, h⟩ := onStopData_cases s
  rw [h]

/-- A byte lifts the suppression only as the terminator of a `GET_INFO` frame. -/
theorem rxByte_lifts {b : Byte} {s : State} (hs : s.suppress = true) (ht : (rxByte b s).suppress = false) :
    LiftedAfterWindow s (rxByte b s) ∧ s.rxState = .waitTerm ∧ s.curCmd = cmdGetInfo := by
  have unchanged : ∀ u : State, u.suppress = s.suppress → rxByte b s ≠ u := by
    rintro u hu rfl
    exact absurd (hs.symm.trans (hu.symm.trans ht)) (by decide)
  obtain ⟨-, r, l, c, p, k, -, h⟩ | ⟨-, h⟩ | ⟨-, l, h⟩ | ⟨hterm, h | h | h⟩ := rxByte_cases b s
  case inr.inr.inr.inr.inr =>
    obtain ⟨hcmd, hd⟩ | ⟨-, hd⟩ | ⟨-, hd⟩ | ⟨-, hd⟩ := dispatch_cases s.curCmd s.rxBuf s <;> rw [hd] at h
    · rw [h] at ht ⊢
      exact ⟨liftedAfterWindow_onGetInfo hs ht, hterm, hcmd⟩
    · exact absurd h (unchanged _ ((onStopData_suppress s).trans hs.symm))
    · exact absurd h (unchanged _ (onSendData_suppress _ s))
    · exact absurd h (unchanged _ rfl)
  all_goals exact absurd h (unchanged _ rfl)

/-- Where a run of bytes lifts the suppression, one of them does. -/
theorem exists_byte_lifting {bytes : Bytes} {s : State} (hs : s.suppress = true) (ht : (afterBytes bytes s).suppress = false) :
    ∃ pre b post, bytes = pre ++ b :: post ∧ (afterBytes pre s).suppress = true ∧
      (rxByte b (afterBytes pre s)).suppress = false := by
  induction bytes generalizing s with
  | nil => exact absurd (hs.symm.trans ht) (by decide)
  | cons b bytes ih =>
    cases hb : (rxByte b s).suppress with
    | false => exact ⟨[], b, bytes, rfl, hs, hb⟩
    | true =>
      obtain ⟨pre, b', post, rfl, hpre, hlift⟩ := ih hb ht
      exact ⟨b :: pre, b', post, rfl, hpre, hlift⟩

theorem exec_lifts {i : Instr} {s t : State} (h : exec i s = .next t) (hpoll : i ≠ .poll) (hs : s.suppress = true)
    (ht : t.suppress = false) :
    LiftedAfterWindow s t ∧
      ((∃ c, i = .send c) ∨ (∃ p, i = .getInfo p) ∨ ∃ b, i = .rxByte b ∧ s.rxState = .waitTerm ∧ s.curCmd = 0x50#8) := by
  have unchanged : t.suppress ≠ s.suppress := fun hsame => absurd (hs.symm.trans (hsame.symm.trans ht)) (by decide)
  obtain ⟨-, -, hsuppress⟩ | hwriter := quiet_or_writer h
  · exact absurd hsuppress unchanged
  · cases hwriter
    case clearsErrors => exact absurd rfl unchanged
    case sends c => exact ⟨liftedAfterWindow_send hs ht, .inl ⟨c, rfl⟩⟩
    case responds p => exact ⟨liftedAfterWindow_onGetInfo hs ht, .inr (.inl ⟨p, rfl⟩)⟩
    case suppresses => exact absurd ((onStopData_suppress s).trans hs.symm) unchanged
    case receivesData p => exact absurd (onSendData_suppress p s) unchanged
    case takesByte b =>
      obtain ⟨hlifted, hterm, hcmd⟩ := rxByte_lifts hs ht
      exact ⟨hlifted, .inr (.inr ⟨b, rfl, hterm, hcmd⟩)⟩
    case pollsBytes => exact absurd rfl hpoll

theorem poll_lifts {s t : State} (h : exec .poll s = .next t) (hs : s.suppress = true) (ht : t.suppress = false) :
    ∃ pre b post, s.rxFifo = pre ++ b :: post ∧ (afterBytes pre s).suppress = true ∧
      (rxByte b (afterBytes pre s)).suppress = false := by
  by_cases hq : s.rxFifo = []
  · rw [exec_poll_of_nil hq] at h
    cases h
    exact absurd (hs.symm.trans ht) (by decide)
  · rw [exec_poll_of_ne_nil hq] at h
    cases h
    exact exists_byte_lifting hs ht

/-- Settles O36: `STOP_DATA`'s equation; then the instructions that can lift the suppression, alone, in a poll and in a step. -/
theorem stopDataStartsTheWindow : Obligations.StopDataStartsTheWindow := by
  refine ⟨exec_stopData, fun i s t h hpoll hs ht => ?instruction, fun s t h hs ht => ?poll, fun s t h hs ht => ?step⟩
  case instruction =>
    obtain ⟨⟨hstop, hnow, helapsed⟩, hwho⟩ := exec_lifts h hpoll hs ht
    exact ⟨hstop, hnow, helapsed, hwho⟩
  case poll =>
    obtain ⟨pre, b, post, hq, hpre, hlift⟩ := poll_lifts h hs ht
    exact ⟨pre, post, b, _, _, hq, receiveAll_eq_next pre s, exec_rxByte b _, hpre, hlift⟩
  case step =>
    obtain ⟨-, -, hsuppress⟩ | ⟨ts, hts, -⟩ | ⟨ts, i, rest, -, -, hi, -⟩ | ⟨ts, b, q, -, rfl⟩ := step_quiet_or_writer h
    · exact absurd (hs.symm.trans (hsuppress.symm.trans ht)) (by decide)
    · exact .inl ⟨ts, hts⟩
    · exact .inr ⟨i, { s with turns := ts, hostPort := rest }, rfl, hi⟩
    · exact .inr ⟨.rxByte b, { s with turns := ts, rxFifo := q }, rfl, exec_rxByte b _⟩

end Sys2Proof.Machine
end
